-- ==== Sys2Proof/Word.lean ====
section
/-! DEFINITION. The widths of the unit's ports (spec R8, R9, R19, R20). None of them is a parameter. -/

namespace Sys2Proof

/-- The operation-select value on port `op` (R9, R19). -/
abbrev OpSel := BitVec 3

/-- A 32-bit operand or result (R8, R19, R20). -/
abbrev Word := BitVec 32

/-- The 64-bit port `a`, and the internal product (R8, R19). -/
abbrev DWord := BitVec 64

end Sys2Proof
end

