-- ==== Sys2Proof/Syntax.lean ====
section
/-! DEFINITION. The six operations of the unit, one constructor per row of the opcode map (spec R2, R42). -/

namespace Sys2Proof

/-- The operations (R2, R42). An operation carries no operand: operand values come whole from the ports `a` and `b`
(R46), and there are no immediates, register specifiers or addressing modes. -/
inductive Instr where
  | signedAdd32
  | unsignedAdd32
  | signedMul32
  | unsignedMul32
  | narrowS64To32
  | narrowU64To32
  deriving DecidableEq, Repr

end Sys2Proof
end

