-- ==== Sys2Proof/WellFormed.lean ====
section
/-! DEFINITION. Well-formedness: which `op` values select an operation (spec R42, R47), and of instructions. -/

namespace Sys2Proof

/-- `op` selects an operation: its family field `op[2:1]` is not the reserved `11` (R40, R47). -/
def opWellFormed (op : OpSel) : Bool := !(op.getLsbD 2 && op.getLsbD 1)

/-- An operation has no field to constrain (R46), and each of the six is always present (R3). -/
def Instr.wellFormed : Instr → Bool
  | .signedAdd32 => true
  | .unsignedAdd32 => true
  | .signedMul32 => true
  | .unsignedMul32 => true
  | .narrowS64To32 => true
  | .narrowU64To32 => true

end Sys2Proof
end

