-- ==== Sys2Proof/Decode.lean ====
section
/-! DEFINITION. The decoder of the `op` port, total and rejecting by name (spec R39 to R42, R47 to R49), and the
encoder written from the same field tables. -/

namespace Sys2Proof

/-- The named values of the field `fam` (R40). -/
inductive Family where
  | add
  | multiply
  | narrow
  deriving DecidableEq, Repr

/-- The values of the field `u` (R40). -/
inductive Signedness where
  | signed
  | unsigned
  deriving DecidableEq, Repr

/-- Why the decoder refuses: a reserved `op` (R47). -/
inductive DecodeError where
  | reservedOp (op : OpSel)
  deriving DecidableEq, Repr

/-- The field `fam`, `op[2:1]` (R40). -/
def famField (op : OpSel) : BitVec 2 := op.extractLsb' 1 2

/-- The field `u`, `op[0]` (R40). -/
def uField (op : OpSel) : BitVec 1 := op.extractLsb' 0 1

/-- The values of `fam` (R40); `none` is the reserved `11`. -/
def familyOf (fam : BitVec 2) : Option Family :=
  if fam = 0b00#2 then some .add
  else if fam = 0b01#2 then some .multiply
  else if fam = 0b10#2 then some .narrow
  else none

/-- The values of `u` (R40). -/
def signednessOf (u : BitVec 1) : Signedness := if u = 0b0#1 then .signed else .unsigned

/-- The operation of a family and a signedness (R42). -/
def Instr.ofFields : Family → Signedness → Instr
  | .add, .signed => .signedAdd32
  | .add, .unsigned => .unsignedAdd32
  | .multiply, .signed => .signedMul32
  | .multiply, .unsigned => .unsignedMul32
  | .narrow, .signed => .narrowS64To32
  | .narrow, .unsigned => .narrowU64To32

/-- The decoder: exactly one operation or `ReservedOp`, for every value of `op` (R49). -/
def decode (op : OpSel) : Except DecodeError Instr :=
  match familyOf (famField op) with
  | some f => .ok (Instr.ofFields f (signednessOf (uField op)))
  | none => .error (.reservedOp op)

/-- The family of an operation (R42, column `fam`). -/
def Instr.family : Instr → Family
  | .signedAdd32 => .add
  | .unsignedAdd32 => .add
  | .signedMul32 => .multiply
  | .unsignedMul32 => .multiply
  | .narrowS64To32 => .narrow
  | .narrowU64To32 => .narrow

/-- The signedness of an operation (R42, column `u`). -/
def Instr.signedness : Instr → Signedness
  | .signedAdd32 => .signed
  | .unsignedAdd32 => .unsigned
  | .signedMul32 => .signed
  | .unsignedMul32 => .unsigned
  | .narrowS64To32 => .signed
  | .narrowU64To32 => .unsigned

/-- The bits of a family (R40). -/
def Family.bits : Family → BitVec 2
  | .add => 0b00#2
  | .multiply => 0b01#2
  | .narrow => 0b10#2

/-- The bit of a signedness (R40). -/
def Signedness.bit : Signedness → BitVec 1
  | .signed => 0b0#1
  | .unsigned => 0b1#1

/-- The encoder: `fam` in `op[2:1]`, `u` in `op[0]` (R40). -/
def encode (i : Instr) : OpSel := i.family.bits ++ i.signedness.bit

/-- The instruction the decoder reads from a table word: its low `nbits` bits, bit 0 the least significant bit of
`op`. The port has three wires, so a word with a bit set above bit 2 is no encoding (R41; log entry 7). -/
def decodeTableWord (nbits w : Nat) : Option Instr :=
  let v := w % 2 ^ nbits
  if v < 8 then
    match decode (BitVec.ofNat 3 v) with
    | .ok i => some i
    | .error _ => none
  else none

end Sys2Proof
end

