-- ==== Sys2Proof/Machine/State.lean ====
section
/-! DEFINITION. The signals at the unit's ports (spec R16 to R20, R95 to R98), and the reasons a step can stop. -/

namespace Sys2Proof.Machine

/-- The values on the two output ports `result` and `ok` (R20). -/
structure Outputs where
  /-- The 32-bit result: exact, or the clamp value on overflow (R20). -/
  result : Word
  /-- True when no clamping was needed (R20, R21). -/
  ok : Bool
  deriving DecidableEq, Repr

/-- One value on each of the three input ports (R19): what the host presents (R94). -/
structure Inputs where
  op : OpSel
  a : DWord
  b : Word
  deriving DecidableEq, Repr

/-- The unit holds no architectural state (R16): what a state of the model holds is the signals at its ports between
two host moves (DESIGN CHOICE, log entry 1). -/
structure State where
  /-- Input port `op`, the operation select (R19). -/
  op : OpSel
  /-- Input port `a`, the first operand (R19). -/
  a : DWord
  /-- Input port `b`, the second operand (R19). -/
  b : Word
  /-- The output ports `result` and `ok` (R20) once settled; `none` while they are unspecified, from a change of an
  input until the evaluation (R98; DESIGN CHOICE, log entry 4). -/
  outputs : Option Outputs
  deriving DecidableEq, Repr

/-- The unit has no exception, trap or fault mechanism (R80): no constructor, so no step can fault. Safe (log
entry 13). -/
inductive Fault
  deriving DecidableEq, Repr

/-- Why an evaluation is refused. -/
inductive Refusal where
  /-- Raised by an arm of `exec` for an instruction without a meaning; no arm raises it. Safe. -/
  | notModelled (mnemonic : String)
  /-- Raised by `step` and `eval` for the reserved `op` values `110` and `111`, whose outputs the spec leaves
  unspecified (R47, R48). Safe: nothing can be proved of the outputs (log entry 11). -/
  | reservedOp (op : OpSel)
  deriving DecidableEq, Repr

/-- The ports at power-up. The unit has no reset (R95); the host has presented nothing, and the inputs are named zero
(DESIGN CHOICE, unsafe, log entry 2). The outputs are the function of these inputs (R96): `signedAdd32` of 0 and 0
is 0, exact (DEDUCED, log entry 3). -/
def State.reset : State := ⟨0b000#3, 0#64, 0#32, some ⟨0#32, true⟩⟩

end Sys2Proof.Machine
end

