-- ==== Sys2Proof/Machine/Ops.lean ====
section
/-! DEFINITION. The notation of the pseudocode (spec R10, R11), the named constants (R13), and the named operations on
the ports (R12, R94). The unit has no registers, no memory and no exceptions (R16, R30, R80), so there is no register,
memory or exception-taking operation. -/

namespace Sys2Proof.Machine

/-- `uint(v)`: the integer `v` denotes in binary (R11). -/
def uint {n : Nat} (v : BitVec n) : Int := v.toNat

/-- `sint(v)`: the integer `v` denotes in two's complement, `uint(v) - 2^N * v[N-1]` (R11). PRESUMED by the spec
itself (R10, log entry 9). -/
def sint {n : Nat} (v : BitVec n) : Int := uint v - 2 ^ n * (if v.msb then 1 else 0)

/-- `bits_N(n)`: the N-bit vector whose `uint` is `n mod 2^N` (R11). The only place where a value wraps. -/
def bits (width : Nat) (n : Int) : BitVec width := BitVec.ofNat width (n % 2 ^ width).toNat

/-- `zext_N(v)`: `v` widened to N bits with zeros (R11). -/
def zext {n : Nat} (width : Nat) (v : BitVec n) : BitVec width := v.setWidth width

/-- `sext_N(v)`: `v` widened to N bits with copies of its top bit (R11). -/
def sext {n : Nat} (width : Nat) (v : BitVec n) : BitVec width := v.signExtend width

/-- `trunc_N(v)`: `v[N-1:0]` (R11). -/
def trunc {n : Nat} (width : Nat) (v : BitVec n) : BitVec width := v.extractLsb' 0 width

/-- INT32_MAX (R13). PRESUMED by the spec itself (log entry 9). -/
def int32Max : Int := 2147483647

/-- INT32_MIN (R13). PRESUMED by the spec itself (log entry 9). -/
def int32Min : Int := -2147483648

/-- UINT32_MAX (R13). PRESUMED by the spec itself (log entry 9). -/
def uint32Max : Int := 4294967295

/-- The bit pattern of INT32_MAX as a clamp value (R54, R66, R74). -/
def clampMaxSigned : Word := 0x7FFFFFFF#32

/-- The bit pattern of INT32_MIN as a clamp value (R54, R66, R74). -/
def clampMinSigned : Word := 0x80000000#32

/-- The bit pattern of UINT32_MAX as a clamp value (R59, R68, R76). -/
def clampMaxUnsigned : Word := 0xFFFFFFFF#32

/-- `result <- r` and `ok <- k` (R12): the evaluation drives both output ports and nothing else. -/
def State.drive (s : State) (o : Outputs) : State := { s with outputs := some o }

/-- The host presents values on the three input ports (R94). The outputs are unspecified from then until the unit has
evaluated them (R98; log entry 4). -/
def State.present (x : Inputs) (s : State) : State := { s with op := x.op, a := x.a, b := x.b, outputs := none }

/-- The values on the input ports (R19). -/
def State.inputs (s : State) : Inputs := ⟨s.op, s.a, s.b⟩

/-- What the host reads when it samples the output ports (R94): nothing specified before the evaluation (R98). -/
def State.sample (s : State) : Option Outputs := s.outputs

end Sys2Proof.Machine
end

