-- ==== Sys2Proof/Machine/Flags.lean ====
section
/-! DEFINITION. The only flag, `ok`, and the clamp that goes with it (spec R14, R21, R24, R81). The unit has no sticky,
direction or carry flag (R22). -/

namespace Sys2Proof.Machine

/-- The exact result lies in `S32` (R14). -/
def fitsS32 (n : Int) : Bool := decide (int32Min ≤ n) && decide (n ≤ int32Max)

/-- The exact result lies in `U32` (R14). -/
def fitsU32 (n : Int) : Bool := decide (0 ≤ n) && decide (n ≤ uint32Max)

/-- The signed choice between clamping and passing `fit` through, for the exact result `n` (the pseudocode that R54,
R66 and R74 share). -/
def clampSigned (n : Int) (fit : Word) : Outputs :=
  if n > int32Max then ⟨clampMaxSigned, false⟩
  else if n < int32Min then ⟨clampMinSigned, false⟩
  else ⟨fit, true⟩

/-- The unsigned choice between clamping and passing `fit` through, for the exact result `n` (the pseudocode that R59,
R68 and R76 share). Never clamps to 0. -/
def clampUnsigned (n : Int) (fit : Word) : Outputs :=
  if n > uint32Max then ⟨clampMaxUnsigned, false⟩ else ⟨fit, true⟩

end Sys2Proof.Machine
end

