-- ==== Sys2Proof/Machine/Operands.lean ====
section
/-! DEFINITION. Operand assembly (spec R43, R44, R46): every operand form the unit has. How a form is read, signed or
unsigned, is the operation's own (`sint` or `uint` in its meaning). -/

namespace Sys2Proof.Machine

/-- `A = a[31:0]`, the first operand of the add and multiply families; `a[63:32]` is not used (R43). -/
def operandA (a : DWord) : Word := trunc 32 a

/-- `B = b[31:0]`, the second operand of the add and multiply families (R43). -/
def operandB (b : Word) : Word := b

/-- `W = a[63:0]`, the operand of the narrow family; `b` is not used (R44). -/
def operandW (a : DWord) : DWord := a

end Sys2Proof.Machine
end

