-- ==== Sys2Proof/Machine/Add.lean ====
section
/-! DEFINITION. The saturating adder: `signedAdd32` and `unsignedAdd32` (spec 41_add.md). -/

namespace Sys2Proof.Machine

/-- The outputs of `signedAdd32` (R54). -/
def signedAdd32 (A B : Word) : Outputs :=
  let s := sint A + sint B
  clampSigned s (bits 32 s)

/-- The outputs of `unsignedAdd32` (R59). -/
def unsignedAdd32 (A B : Word) : Outputs :=
  let s := uint A + uint B
  clampUnsigned s (bits 32 s)

/-- `signedAdd32` on the ports (R43, R54). -/
def execSignedAdd32 (s : State) : Host.Outcome State Fault Refusal :=
  .next (s.drive (signedAdd32 (operandA s.a) (operandB s.b)))

/-- `unsignedAdd32` on the ports (R43, R59). -/
def execUnsignedAdd32 (s : State) : Host.Outcome State Fault Refusal :=
  .next (s.drive (unsignedAdd32 (operandA s.a) (operandB s.b)))

end Sys2Proof.Machine
end

