-- ==== Sys2Proof/Machine/Mul.lean ====
section
/-! DEFINITION. The saturating multiplier: `signedMul32` and `unsignedMul32` (spec 43_mul.md). -/

namespace Sys2Proof.Machine

/-- The outputs of `signedMul32` (R74): the exact product, kept whole in 64 bits, then narrowed. -/
def signedMul32 (A B : Word) : Outputs :=
  let p := sint A * sint B
  let P : DWord := bits 64 p
  clampSigned p (trunc 32 P)

/-- The outputs of `unsignedMul32` (R76): the exact product, kept whole in 64 bits, then narrowed. -/
def unsignedMul32 (A B : Word) : Outputs :=
  let p := uint A * uint B
  let P : DWord := bits 64 p
  clampUnsigned p (trunc 32 P)

/-- `signedMul32` on the ports (R43, R74). -/
def execSignedMul32 (s : State) : Host.Outcome State Fault Refusal :=
  .next (s.drive (signedMul32 (operandA s.a) (operandB s.b)))

/-- `unsignedMul32` on the ports (R43, R76). -/
def execUnsignedMul32 (s : State) : Host.Outcome State Fault Refusal :=
  .next (s.drive (unsignedMul32 (operandA s.a) (operandB s.b)))

end Sys2Proof.Machine
end

