-- ==== Sys2Proof/Machine/Narrow.lean ====
section
/-! DEFINITION. The overflow-detecting narrowing: `narrowS64To32` and `narrowU64To32` (spec 42_narrow.md). -/

namespace Sys2Proof.Machine

/-- The outputs of `narrowS64To32` (R66). -/
def narrowS64To32 (W : DWord) : Outputs := clampSigned (sint W) (trunc 32 W)

/-- The outputs of `narrowU64To32` (R68): unsigned to unsigned (90_conflicts.md C2). -/
def narrowU64To32 (W : DWord) : Outputs := clampUnsigned (uint W) (trunc 32 W)

/-- `narrowS64To32` on the ports (R44, R66). -/
def execNarrowS64To32 (s : State) : Host.Outcome State Fault Refusal :=
  .next (s.drive (narrowS64To32 (operandW s.a)))

/-- `narrowU64To32` on the ports (R44, R68). -/
def execNarrowU64To32 (s : State) : Host.Outcome State Fault Refusal :=
  .next (s.drive (narrowU64To32 (operandW s.a)))

end Sys2Proof.Machine
end

