-- ==== Sys2Proof/Machine/Dispatch.lean ====
section
/-! DEFINITION. The dispatch: each operation of the opcode map (spec R42) to its meaning. -/

namespace Sys2Proof.Machine

def exec (i : Instr) (s : State) : Host.Outcome State Fault Refusal :=
  match i with
  | .signedAdd32 => Sys2Proof.Machine.execSignedAdd32 s
  | .unsignedAdd32 => Sys2Proof.Machine.execUnsignedAdd32 s
  | .signedMul32 => Sys2Proof.Machine.execSignedMul32 s
  | .unsignedMul32 => Sys2Proof.Machine.execUnsignedMul32 s
  | .narrowS64To32 => Sys2Proof.Machine.execNarrowS64To32 s
  | .narrowU64To32 => Sys2Proof.Machine.execNarrowU64To32 s

end Sys2Proof.Machine
end

