-- ==== Sys2Proof/Machine/Step.lean ====
section
/-! DEFINITION. One step of the machine: one evaluation of the values on the input ports (spec R17, R28, R39, R84). -/

namespace Sys2Proof.Machine

/-- One evaluation, atomic (R28, R98): decode `op` first (R84), refuse a reserved value (R48), else drive the outputs.
The inputs stay as the host holds them (R94; log entry 8). -/
def step (s : State) : Host.Outcome State Fault Refusal :=
  match decode s.op with
  | .ok i => exec i s
  | .error (.reservedOp op) => .refused (.reservedOp op)

/-- The host puts the operation `w` on the port `op` (R94), where `step` reads its next instruction (R37, R39). The
operands stay; the outputs are unspecified until the evaluation (R98). How a program comes to run: log entry 6. -/
def State.withFetchWord (s : State) (nbits w : Nat) : State :=
  s.present ⟨BitVec.ofNat 3 (w % 2 ^ nbits), s.a, s.b⟩

end Sys2Proof.Machine
end

