-- ==== Sys2Proof/Machine/Assembler.lean ====
section
/-! DEFINITION. The spec's notation for one evaluation, `<mnemonic> <a>, <b>` or `<mnemonic> <a>` (spec R50, R51): its
literals and their ranges, the port values it stands for, and its text form. A notation of the spec only (D12). -/

namespace Sys2Proof.Machine

/-- An operand of the notation: an integer literal or a constant name of R13 (R50). -/
inductive Literal where
  | number (n : Int)
  | int32Max
  | int32Min
  | uint32Max
  deriving DecidableEq, Repr

/-- A line of the notation (R50). -/
inductive Line where
  | two (i : Instr) (x y : Literal)
  | one (i : Instr) (x : Literal)
  deriving DecidableEq, Repr

/-- The integer a literal denotes (R13, R50). -/
def Literal.value : Literal → Int
  | .number n => n
  | .int32Max => Machine.int32Max
  | .int32Min => Machine.int32Min
  | .uint32Max => Machine.uint32Max

/-- The range of an operation's operands (R50), as its least and greatest value. -/
def operandRange : Instr → Int × Int
  | .signedAdd32 => (int32Min, int32Max)
  | .unsignedAdd32 => (0, uint32Max)
  | .signedMul32 => (int32Min, int32Max)
  | .unsignedMul32 => (0, uint32Max)
  | .narrowS64To32 => (-2 ^ 63, 2 ^ 63 - 1)
  | .narrowU64To32 => (0, 2 ^ 64 - 1)

/-- A literal lies in the range of an operation's operands (R50). -/
def Literal.inRange (i : Instr) (x : Literal) : Bool :=
  decide ((operandRange i).1 ≤ x.value) && decide (x.value ≤ (operandRange i).2)

/-- A line has the operands of its family, each in range (R50). -/
def Line.wellFormed : Line → Bool
  | .two i x y => decide (i.family ≠ .narrow) && x.inRange i && y.inRange i
  | .one i x => decide (i.family = .narrow) && x.inRange i

/-- The port values of a line, unused port bits zero (R50); `none` for an ill-formed line. -/
def assemble (l : Line) : Option Inputs :=
  if l.wellFormed then
    match l with
    | .two i x y => some ⟨encode i, zext 64 (bits 32 x.value), bits 32 y.value⟩
    | .one i x => some ⟨encode i, bits 64 x.value, 0#32⟩
  else none

/-- The digits of a numeral in base 10 or 16, most significant first, as a number; `none` if there is no digit or one
that the base lacks. Hexadecimal digits in either case (DESIGN CHOICE, log entry 14). -/
def digitValue (base : Nat) (c : Char) : Option Nat :=
  let k := c.toNat
  let v := if 48 ≤ k && k ≤ 57 then k - 48 else if 65 ≤ k && k ≤ 70 then k - 55
    else if 97 ≤ k && k ≤ 102 then k - 87 else 16
  if v < base then some v else none

/-- A numeral read on from the value of its leading digits. -/
def readDigits (base : Nat) (acc : Nat) : List Char → Option Nat
  | [] => some acc
  | c :: cs =>
    match digitValue base c with
    | some v => readDigits base (acc * base + v) cs
    | none => none

/-- A non-negative numeral, decimal or `0x` hexadecimal (R50). -/
def readNat : List Char → Option Nat
  | [] => none
  | '0' :: 'x' :: [] => none
  | '0' :: 'x' :: ds => readDigits 16 0 ds
  | ds => readDigits 10 0 ds

/-- A literal of the text (R50). -/
def readLiteral (cs : List Char) : Option Literal :=
  if cs = "INT32_MAX".toList then some .int32Max
  else if cs = "INT32_MIN".toList then some .int32Min
  else if cs = "UINT32_MAX".toList then some .uint32Max
  else match cs with
    | '-' :: ds => (readNat ds).map fun n => .number (-(n : Int))
    | ds => (readNat ds).map fun n => .number n

/-- The operation of a mnemonic (R42, R50). -/
def readMnemonic (cs : List Char) : Option Instr :=
  if cs = "signedAdd32".toList then some .signedAdd32
  else if cs = "unsignedAdd32".toList then some .unsignedAdd32
  else if cs = "signedMul32".toList then some .signedMul32
  else if cs = "unsignedMul32".toList then some .unsignedMul32
  else if cs = "narrowS64To32".toList then some .narrowS64To32
  else if cs = "narrowU64To32".toList then some .narrowU64To32
  else none

/-- The text up to the first `sep` and the text after it; `none` for the latter if there is no `sep`. -/
def splitFirst (sep : Char) : List Char → List Char × Option (List Char)
  | [] => ([], none)
  | c :: cs => if c = sep then ([], some cs) else (c :: (splitFirst sep cs).1, (splitFirst sep cs).2)

/-- A line of the text: mnemonic, one space, operands, a comma and a space between two operands (R50; spacing is a
DESIGN CHOICE, log entry 14). -/
def readLine (cs : List Char) : Option Line :=
  match splitFirst ' ' cs with
  | (m, some rest) =>
    match readMnemonic m, splitFirst ',' rest with
    | some i, (x, none) => (readLiteral x).map fun x => .one i x
    | some i, (x, some (' ' :: y)) =>
      match readLiteral x, readLiteral y with
      | some x, some y => some (.two i x y)
      | _, _ => none
    | _, _ => none
  | (_, none) => none

end Sys2Proof.Machine
end

