-- ==== Sys2Proof/Machine/Datapath.lean ====
section
/-! DEFINITION. The gate-level forms the spec gives beside the pseudocode: the shared adder, the sign-bit and source
overflow tests, the two narrowing paths, the multiplier and the mux that joins them (spec R53, R55, R56, R60, R62 to
R65, R71 to R73). The meanings do not use them; that they give the same outputs is a claim about the model. -/

namespace Sys2Proof.Machine

/-- The outputs of the one 32-bit binary adder that serves both additions (R53). -/
structure AdderOut where
  sum : Word
  carryOut : Bool
  deriving DecidableEq, Repr

/-- The 32-bit binary adder with carry-out (R53). -/
def adder (A B : Word) : AdderOut :=
  let w : BitVec 33 := zext 33 A + zext 33 B
  ⟨trunc 32 w, w.msb⟩

/-- Signed overflow, from the sign bits of the operands and of the adder's output (R56). -/
def signBitOverflow (A B : Word) : Bool := (A.msb == B.msb) && ((adder A B).sum.msb != A.msb)

/-- Signed addition on the adder, with the sign-bit test and clamp (R56). -/
def signedAddGates (A B : Word) : Outputs :=
  if signBitOverflow A B then ⟨if A.msb then clampMinSigned else clampMaxSigned, false⟩
  else ⟨(adder A B).sum, true⟩

/-- Unsigned addition on the adder: overflow is the carry out of bit 31 (R60). -/
def unsignedAddGates (A B : Word) : Outputs :=
  if (adder A B).carryOut then ⟨clampMaxUnsigned, false⟩ else ⟨(adder A B).sum, true⟩

/-- The wrapped 32-bit sum, read as signed: the `a+b` of the source's signed condition (R55; 90_conflicts.md C3). -/
def wrappedSum (A B : Word) : Int := sint (bits 32 (sint A + sint B))

/-- The source's condition for positive overflow (R55). -/
def sourcePositiveOverflow (A B : Word) : Bool := decide (sint B > 0) && decide (wrappedSum A B < sint A)

/-- The source's condition for negative overflow (R55). -/
def sourceNegativeOverflow (A B : Word) : Bool := decide (sint B < 0) && decide (wrappedSum A B > sint A)

/-- The sum modulo 2^32 of the source's unsigned condition (R60). -/
def modularSum (A B : Word) : Int := uint (bits 32 (uint A + uint B))

/-- The source's condition for unsigned overflow (R60). -/
def sourceUnsignedOverflow (A B : Word) : Bool :=
  decide (modularSum A B < uint A) || decide (modularSum A B < uint B)

/-- The sign-extend path of the narrowing mux (R63). -/
def signExtendPath (N : DWord) : Outputs :=
  if sext 64 (trunc 32 N) = N then ⟨trunc 32 N, true⟩
  else ⟨if N.msb then clampMinSigned else clampMaxSigned, false⟩

/-- The zero-extend path of the narrowing mux (R64). -/
def zeroExtendPath (N : DWord) : Outputs :=
  if zext 64 (trunc 32 N) = N then ⟨trunc 32 N, true⟩ else ⟨clampMaxUnsigned, false⟩

/-- The 64-bit product of the promoted operands (R72, R73). -/
def product (u : Signedness) (A B : Word) : DWord :=
  match u with
  | .signed => sext 64 A * sext 64 B
  | .unsigned => zext 64 A * zext 64 B

/-- The path that `op[0]` selects (R65). -/
def narrowingPath (u : Signedness) (N : DWord) : Outputs :=
  match u with
  | .signed => signExtendPath N
  | .unsigned => zeroExtendPath N

/-- The whole block: the adder for the add family; for the other two the narrowing mux, whose input the family selects
(R65, R71). A reserved `op` is refused (R48). -/
def datapath (op : BitVec 3) (a : BitVec 64) (b : BitVec 32) : Except Refusal (BitVec 32 × Bool) :=
  let u := signednessOf (uField op)
  match familyOf (famField op) with
  | some .add =>
    let o := match u with
      | .signed => signedAddGates (operandA a) (operandB b)
      | .unsigned => unsignedAddGates (operandA a) (operandB b)
    .ok (o.result, o.ok)
  | some .multiply =>
    let o := narrowingPath u (product u (operandA a) (operandB b))
    .ok (o.result, o.ok)
  | some .narrow =>
    let o := narrowingPath u (operandW a)
    .ok (o.result, o.ok)
  | none => .error (.reservedOp op)

end Sys2Proof.Machine
end

