-- ==== Sys2Proof/Machine/Eval.lean ====
section
/-! DEFINITION. The unit as one total function of its inputs (spec R17), with no state at all, and the words the spec
uses of every operation's result: exact result, fits, clamp value (R14, R21, R24, R81). -/

namespace Sys2Proof.Machine

/-- The outputs of an operation on the values of the operand ports (R17, R42). -/
def operate (i : Instr) (a : DWord) (b : Word) : Outputs :=
  match i with
  | .signedAdd32 => signedAdd32 (operandA a) (operandB b)
  | .unsignedAdd32 => unsignedAdd32 (operandA a) (operandB b)
  | .signedMul32 => signedMul32 (operandA a) (operandB b)
  | .unsignedMul32 => unsignedMul32 (operandA a) (operandB b)
  | .narrowS64To32 => narrowS64To32 (operandW a)
  | .narrowU64To32 => narrowU64To32 (operandW a)

/-- The unit's behaviour, with the type the spec gives it: `result` and `ok`, or a refusal (R17). -/
def eval (op : BitVec 3) (a : BitVec 64) (b : BitVec 32) : Except Refusal (BitVec 32 × Bool) :=
  match decode op with
  | .ok i => .ok ((operate i a b).result, (operate i a b).ok)
  | .error (.reservedOp op) => .error (.reservedOp op)

/-- The exact (natural mathematical) result of an operation (R14, R81). -/
def exactResult (i : Instr) (a : DWord) (b : Word) : Int :=
  match i with
  | .signedAdd32 => sint (operandA a) + sint (operandB b)
  | .unsignedAdd32 => uint (operandA a) + uint (operandB b)
  | .signedMul32 => sint (operandA a) * sint (operandB b)
  | .unsignedMul32 => uint (operandA a) * uint (operandB b)
  | .narrowS64To32 => sint (operandW a)
  | .narrowU64To32 => uint (operandW a)

/-- An exact result fits the operation's output type (R14). -/
def fitsOutput (i : Instr) (n : Int) : Bool :=
  match i.signedness with
  | .signed => fitsS32 n
  | .unsigned => fitsU32 n

/-- The clamp value of an exact result that does not fit (R81, column clamp). -/
def clampValue (i : Instr) (n : Int) : Word :=
  match i with
  | .signedAdd32 => if n > int32Max then clampMaxSigned else clampMinSigned
  | .unsignedAdd32 => clampMaxUnsigned
  | .signedMul32 => if n > 0 then clampMaxSigned else clampMinSigned
  | .unsignedMul32 => clampMaxUnsigned
  | .narrowS64To32 => if n ≥ 0 then clampMaxSigned else clampMinSigned
  | .narrowU64To32 => clampMaxUnsigned

end Sys2Proof.Machine
end

