-- ==== Sys2Proof/Machine/HostSide.lean ====
section
/-! DEFINITION. What the host does to the unit (spec R25, R28, R94): its moves, a whole evaluation, a session of moves,
and several units served in any order (R36, R91). -/

namespace Sys2Proof.Machine

/-- The host evaluates: it presents the inputs, and the unit evaluates them while they are held (R94). -/
def evaluate (x : Inputs) (s : State) : Host.Outcome State Fault Refusal := step (s.present x)

/-- The moves of the host agent on one unit (R94): change the inputs, at any time, or let them settle. -/
inductive HostMove where
  | present (x : Inputs)
  | settle
  deriving DecidableEq, Repr

/-- The effect of a move. -/
def HostMove.apply (m : HostMove) (s : State) : Host.Outcome State Fault Refusal :=
  match m with
  | .present x => .next (s.present x)
  | .settle => step s

/-- A session: the host's moves one after another (R25), up to the first refusal (95_test_vectors.md P5). -/
def runMoves : List HostMove → State → Host.Outcome State Fault Refusal
  | [], s => .next s
  | m :: ms, s =>
    match m.apply s with
    | .next t => runMoves ms t
    | .fault f => .fault f
    | .refused r => .refused r

/-- A caller's request to one of several units (R91). The number only names the unit in the model: units need no
identifiers (R91). -/
structure Request where
  unit : Nat
  inputs : Inputs
  deriving DecidableEq, Repr

/-- What a caller gets: the sampled outputs or the refusal; `none` where there is no such unit. -/
abbrev Answer := Option (Except Refusal Outputs)

/-- One request served by its unit alone (R91). After a refusal the unit keeps the presented inputs and its outputs are
unspecified (R48; log entry 11). -/
def serve (r : Request) (us : List State) : Answer × List State :=
  match us[r.unit]? with
  | none => (none, us)
  | some s =>
    match evaluate r.inputs s with
    | .next t => (t.sample.map .ok, us.set r.unit t)
    | .refused e => (some (.error e), us.set r.unit (s.present r.inputs))
    | .fault f => nomatch f

/-- Requests served in the order of the list: any interleaving of any callers (R36, R91; log entry 12). -/
def serveAll : List Request → List State → List Answer × List State
  | [], us => ([], us)
  | r :: rs, us =>
    let (x, us') := serve r us
    let (xs, us'') := serveAll rs us'
    (x :: xs, us'')

end Sys2Proof.Machine
end

