-- ==== Sys2Proof/Safety.lean ====
section
/-! DEFINITION. What counts as a safe run, in the terms the claims use: the host presents operations the opcode map
has (spec R94), and the outputs on show are the function of the inputs on show (R17, R96). -/

namespace Sys2Proof.Machine

/-- The host has not presented a reserved `op`, on whose outputs it must not rely (R48, R94). -/
def State.Safe (s : State) : Prop := opWellFormed s.op = true

/-- Where the outputs are specified, they are the function of the current inputs (R17, R96). -/
def State.Faithful (s : State) : Prop :=
  ∀ o, s.outputs = some o → eval s.op s.a s.b = .ok (o.result, o.ok)

/-- `exec` of `i` at `s` answers the next state in which the output ports hold `r` and `k` and everything else is as it
was: the input ports are the host's (R94) and there is no other state (R16). -/
def State.Gives (s : State) (i : Instr) (r : Word) (k : Bool) : Prop :=
  exec i s = .next { s with outputs := some ⟨r, k⟩ }

end Sys2Proof.Machine
end

