-- ==== Sys2Proof/Certificates/Slice0/Obligations.lean ====
section
/-! DEFINITION. The statements about the model for the provers, in the order of the spec's rules. Statements of results
are written with Lean's own `BitVec.toInt`, `BitVec.toNat`, `BitVec.ofInt` and numerals, not with the model's notation. -/

open Sys2Proof Sys2Proof.Machine

/-! ## Encoding and the step -/

/-- R49: each of the eight values of `op` decodes to its operation or to `ReservedOp`. -/
def Obligations.OpcodeMapDecodes : Prop :=
  decode 0b000#3 = .ok .signedAdd32 ∧ decode 0b001#3 = .ok .unsignedAdd32 ∧
  decode 0b010#3 = .ok .signedMul32 ∧ decode 0b011#3 = .ok .unsignedMul32 ∧
  decode 0b100#3 = .ok .narrowS64To32 ∧ decode 0b101#3 = .ok .narrowU64To32 ∧
  decode 0b110#3 = .error (.reservedOp 0b110#3) ∧ decode 0b111#3 = .error (.reservedOp 0b111#3)

/-- Decoding and encoding are inverse on the operations and on the `op` values that select one. -/
def Obligations.DecodeEncodeRoundTrip : Prop :=
  (∀ i : Instr, decode (encode i) = .ok i ∧ opWellFormed (encode i) = true) ∧
  (∀ (op : OpSel) (i : Instr), decode op = .ok i → encode i = op)

/-- First clause (R17, R39): a step runs the operation that the value on `op` decodes to. Second clause, the model's own
choice and no rule of the spec: a step after `withFetchWord` has put a table word on `op` runs that word's operation, on
the same operands and with no outputs yet (DESIGN CHOICE: log entry 6 for how an operation comes to the port, log entry 7
for table words, log entry 4 for the absent outputs). -/
def Obligations.StepRunsDecodedInstruction : Prop :=
  (∀ (s : State) (i : Instr), decode s.op = .ok i → step s = exec i s) ∧
  (∀ (s : State) (w : Nat) (i : Instr), decodeTableWord 8 w = some i →
    step (s.withFetchWord 8 w) = exec i ⟨encode i, s.a, s.b, none⟩)

/-- R48: a step refuses exactly the reserved `op` values, by name, whatever the operands, and never faults. -/
def Obligations.StepRefusesExactlyReservedOps : Prop :=
  ∀ s : State,
    (∀ r, step s = .refused r ↔ (s.op = 0b110#3 ∨ s.op = 0b111#3) ∧ r = .reservedOp s.op) ∧
    (∀ f, step s ≠ .fault f)

/-- A step answers a next state exactly when the host has presented an operation of the opcode map. -/
def Obligations.SafeExactlyWhenStepCompletes : Prop :=
  ∀ s : State, s.Safe ↔ ∃ t, step s = .next t

/-- Every operation completes on every state, drives the two output ports and leaves the input ports alone. That the
inputs stand in the state and stay is the model's reading (log entries 1 and 8). -/
def Obligations.EveryOperationCompletesWithFrame : Prop :=
  ∀ (i : Instr) (s : State), ∃ o : Outputs,
    exec i s = .next ⟨s.op, s.a, s.b, some o⟩

/-- The step is the spec's stateless function `eval` of the input ports. That there is a step over a state of ports, and
that it leaves the inputs as they are, is the model's reading (log entries 1 and 8). -/
def Obligations.StepIsEvalOfInputs : Prop :=
  ∀ s : State, step s =
    match eval s.op s.a s.b with
    | .ok (r, k) => .next { s with outputs := some ⟨r, k⟩ }
    | .error e => .refused e

/-! ## The six operations -/

/-- R54, `signedAdd32`: encoding, pseudocode and corner cases. -/
def Obligations.SignedAdd32Result : Prop :=
  decode 0b000#3 = .ok .signedAdd32 ∧
  ∀ s : State,
    let A : Word := s.a.extractLsb' 0 32
    let n : Int := A.toInt + s.b.toInt
    (-2 ^ 32 ≤ n ∧ n ≤ 2 ^ 32 - 2) ∧
    (n > 2147483647 → s.Gives .signedAdd32 0x7FFFFFFF#32 false) ∧
    (n < -2147483648 → s.Gives .signedAdd32 0x80000000#32 false) ∧
    (-2147483648 ≤ n → n ≤ 2147483647 → s.Gives .signedAdd32 (BitVec.ofInt 32 n) true) ∧
    (s.b = 0#32 → s.Gives .signedAdd32 A true) ∧
    (A = s.b → n = 2 * A.toInt ∧
      ((∃ r, s.Gives .signedAdd32 r false) ↔ A.toInt > 2 ^ 30 - 1 ∨ A.toInt < -2 ^ 30)) ∧
    (A.msb ≠ s.b.msb → s.Gives .signedAdd32 (BitVec.ofInt 32 n) true) ∧
    (A = 0x80000000#32 → s.b = 0x80000000#32 → s.Gives .signedAdd32 0x80000000#32 false ∧ n = -2 ^ 32) ∧
    (A = 0x7FFFFFFF#32 → s.b = 0x7FFFFFFF#32 → s.Gives .signedAdd32 0x7FFFFFFF#32 false) ∧
    (A = 0x7FFFFFFF#32 → s.b = 0x80000000#32 → s.Gives .signedAdd32 0xFFFFFFFF#32 true) ∧
    (A = 0x7FFFFFFF#32 → s.b = 1#32 → s.Gives .signedAdd32 0x7FFFFFFF#32 false)

/-- R59, `unsignedAdd32`: encoding, pseudocode and corner cases. -/
def Obligations.UnsignedAdd32Result : Prop :=
  decode 0b001#3 = .ok .unsignedAdd32 ∧
  ∀ s : State,
    let A : Word := s.a.extractLsb' 0 32
    let n : Nat := A.toNat + s.b.toNat
    n ≤ 2 ^ 33 - 2 ∧
    (n > 4294967295 → s.Gives .unsignedAdd32 0xFFFFFFFF#32 false) ∧
    (n ≤ 4294967295 → s.Gives .unsignedAdd32 (BitVec.ofNat 32 n) true) ∧
    (s.b = 0#32 → s.Gives .unsignedAdd32 A true) ∧
    (A = 0xFFFFFFFF#32 → s.b = 0#32 → s.Gives .unsignedAdd32 0xFFFFFFFF#32 true) ∧
    (A = 0x80000000#32 → s.b = 0x80000000#32 → s.Gives .unsignedAdd32 0xFFFFFFFF#32 false ∧ n = 2 ^ 32) ∧
    (A = 0xFFFFFFFF#32 → s.b = 0xFFFFFFFF#32 → s.Gives .unsignedAdd32 0xFFFFFFFF#32 false) ∧
    (A = s.b → n = 2 * A.toNat ∧ ((∃ r, s.Gives .unsignedAdd32 r false) ↔ A.toNat ≥ 2 ^ 31)) ∧
    (∀ r, s.Gives .unsignedAdd32 r false → r ≠ 0#32) ∧
    (A = 0xFFFFFFFF#32 → s.b = 1#32 → s.Gives .unsignedAdd32 0xFFFFFFFF#32 false)

/-- R66, `narrowS64To32`: encoding, pseudocode and corner cases. -/
def Obligations.NarrowS64To32Result : Prop :=
  decode 0b100#3 = .ok .narrowS64To32 ∧
  ∀ s : State,
    let v : Int := s.a.toInt
    (-2 ^ 63 ≤ v ∧ v ≤ 2 ^ 63 - 1) ∧
    (v > 2147483647 → s.Gives .narrowS64To32 0x7FFFFFFF#32 false) ∧
    (v < -2147483648 → s.Gives .narrowS64To32 0x80000000#32 false) ∧
    (-2147483648 ≤ v → v ≤ 2147483647 →
      s.Gives .narrowS64To32 (s.a.extractLsb' 0 32) true ∧ s.a.extractLsb' 0 32 = BitVec.ofInt 32 v) ∧
    (s.a = 0x000000007FFFFFFF#64 → s.Gives .narrowS64To32 0x7FFFFFFF#32 true) ∧
    (s.a = 0x0000000080000000#64 → s.Gives .narrowS64To32 0x7FFFFFFF#32 false) ∧
    (s.a = 0xFFFFFFFF80000000#64 → s.Gives .narrowS64To32 0x80000000#32 true) ∧
    (s.a = 0xFFFFFFFF7FFFFFFF#64 → s.Gives .narrowS64To32 0x80000000#32 false ∧ v = -0x80000001) ∧
    (s.a = 0x8000000000000000#64 → s.Gives .narrowS64To32 0x80000000#32 false) ∧
    (s.a = 0x7FFFFFFFFFFFFFFF#64 → s.Gives .narrowS64To32 0x7FFFFFFF#32 false) ∧
    (s.a = 0x00000000FFFFFFFF#64 → s.Gives .narrowS64To32 0x7FFFFFFF#32 false) ∧
    (s.a = 0xFFFFFFFFFFFFFFFF#64 → s.Gives .narrowS64To32 0xFFFFFFFF#32 true) ∧
    (s.a = 0#64 → s.Gives .narrowS64To32 0#32 true)

/-- R68, `narrowU64To32`: encoding, pseudocode and corner cases. -/
def Obligations.NarrowU64To32Result : Prop :=
  decode 0b101#3 = .ok .narrowU64To32 ∧
  ∀ s : State,
    let v : Nat := s.a.toNat
    v ≤ 2 ^ 64 - 1 ∧
    (v > 4294967295 → s.Gives .narrowU64To32 0xFFFFFFFF#32 false) ∧
    (v ≤ 4294967295 →
      s.Gives .narrowU64To32 (s.a.extractLsb' 0 32) true ∧ s.a.extractLsb' 0 32 = BitVec.ofNat 32 v) ∧
    (s.a = 0x00000000FFFFFFFF#64 → s.Gives .narrowU64To32 0xFFFFFFFF#32 true) ∧
    (s.a = 0x0000000100000000#64 → s.Gives .narrowU64To32 0xFFFFFFFF#32 false) ∧
    (s.a = 0xFFFFFFFFFFFFFFFF#64 → s.Gives .narrowU64To32 0xFFFFFFFF#32 false) ∧
    (s.a = 0x8000000000000000#64 → s.Gives .narrowU64To32 0xFFFFFFFF#32 false) ∧
    (s.a = 0xFFFFFFFF00000000#64 → s.Gives .narrowU64To32 0xFFFFFFFF#32 false) ∧
    (s.a = 0#64 → s.Gives .narrowU64To32 0#32 true) ∧
    (∀ r, s.Gives .narrowU64To32 r false → r ≠ 0#32)

/-- R74, `signedMul32`: encoding, pseudocode and corner cases. -/
def Obligations.SignedMul32Result : Prop :=
  decode 0b010#3 = .ok .signedMul32 ∧
  ∀ s : State,
    let A : Word := s.a.extractLsb' 0 32
    let p : Int := A.toInt * s.b.toInt
    (-2 ^ 62 + 2 ^ 31 ≤ p ∧ p ≤ 2 ^ 62) ∧
    (p > 2147483647 → s.Gives .signedMul32 0x7FFFFFFF#32 false) ∧
    (p < -2147483648 → s.Gives .signedMul32 0x80000000#32 false) ∧
    (-2147483648 ≤ p → p ≤ 2147483647 →
      s.Gives .signedMul32 ((A.signExtend 64 * s.b.signExtend 64).extractLsb' 0 32) true ∧
      s.Gives .signedMul32 (BitVec.ofInt 32 p) true) ∧
    (A = 0#32 ∨ s.b = 0#32 → s.Gives .signedMul32 0#32 true) ∧
    (A = 0x80000000#32 → s.b = 1#32 → s.Gives .signedMul32 0x80000000#32 true) ∧
    (A = 0x80000000#32 → s.b = 0xFFFFFFFF#32 → s.Gives .signedMul32 0x7FFFFFFF#32 false ∧ p = 2 ^ 31) ∧
    (A = 0xFFFFFFFF#32 → s.b = 0x80000000#32 → s.Gives .signedMul32 0x7FFFFFFF#32 false ∧ p = 2147483648) ∧
    (A = 0x80000000#32 → s.b = 0x80000000#32 → s.Gives .signedMul32 0x7FFFFFFF#32 false ∧ p = 2 ^ 62) ∧
    (A = 0x80000000#32 → s.b = 2#32 → s.Gives .signedMul32 0x80000000#32 false ∧ p = -2 ^ 32) ∧
    (A = 0x7FFFFFFF#32 → s.b = 0xFFFFFFFF#32 → s.Gives .signedMul32 0x80000001#32 true) ∧
    (A = 0x00010000#32 → s.b = 0x00008000#32 → s.Gives .signedMul32 0x7FFFFFFF#32 false ∧ p = 2 ^ 31) ∧
    (A = 0xFFFF0000#32 → s.b = 0x00008000#32 → s.Gives .signedMul32 0x80000000#32 true ∧ p = -2 ^ 31) ∧
    (A = 46341#32 → s.b = 46341#32 → s.Gives .signedMul32 0x7FFFFFFF#32 false ∧ p = 2147488281) ∧
    (A = 46340#32 → s.b = 46340#32 → s.Gives .signedMul32 2147395600#32 true) ∧
    (A = s.b → 0 ≤ p ∧ ∀ r, s.Gives .signedMul32 r false → r = 0x7FFFFFFF#32)

/-- R76, `unsignedMul32`: encoding, pseudocode and corner cases. -/
def Obligations.UnsignedMul32Result : Prop :=
  decode 0b011#3 = .ok .unsignedMul32 ∧
  ∀ s : State,
    let A : Word := s.a.extractLsb' 0 32
    let p : Nat := A.toNat * s.b.toNat
    let P : DWord := A.setWidth 64 * s.b.setWidth 64
    p ≤ 2 ^ 64 - 2 ^ 33 + 1 ∧ P = BitVec.ofNat 64 p ∧
    (p > 4294967295 ↔ P.extractLsb' 32 32 ≠ 0#32) ∧
    (p > 4294967295 → s.Gives .unsignedMul32 0xFFFFFFFF#32 false) ∧
    (p ≤ 4294967295 → s.Gives .unsignedMul32 (P.extractLsb' 0 32) true) ∧
    (A = 0#32 ∨ s.b = 0#32 → s.Gives .unsignedMul32 0#32 true) ∧
    (A = 0xFFFFFFFF#32 → s.b = 1#32 → s.Gives .unsignedMul32 0xFFFFFFFF#32 true) ∧
    (A = 0x00010000#32 → s.b = 0x00010000#32 → s.Gives .unsignedMul32 0xFFFFFFFF#32 false ∧ p = 2 ^ 32) ∧
    (A = 0x0000FFFF#32 → s.b = 0x00010001#32 → s.Gives .unsignedMul32 0xFFFFFFFF#32 true) ∧
    (A = 0x00010000#32 → s.b = 0x0000FFFF#32 → s.Gives .unsignedMul32 0xFFFF0000#32 true) ∧
    (A = 0xFFFFFFFF#32 → s.b = 0xFFFFFFFF#32 →
      s.Gives .unsignedMul32 0xFFFFFFFF#32 false ∧ P = 0xFFFFFFFE00000001#64) ∧
    (∀ r, s.Gives .unsignedMul32 r false → r ≠ 0#32) ∧
    (A = 0xFFFFFFFF#32 → s.b = 2#32 → s.Gives .unsignedMul32 0xFFFFFFFF#32 false)

/-! ## The flag, the clamp, and what every operation has in common -/

/-- R21: every operation writes `ok`, true exactly when the exact result fits the output type. -/
def Obligations.OkExactlyWhenExactResultFits : Prop :=
  ∀ (i : Instr) (s : State), ∃ r k, s.Gives i r k ∧
    (k = true ↔
      (i.signedness = .signed ∧ -2147483648 ≤ exactResult i s.a s.b ∧ exactResult i s.a s.b ≤ 2147483647) ∨
      (i.signedness = .unsigned ∧ 0 ≤ exactResult i s.a s.b ∧ exactResult i s.a s.b ≤ 4294967295))

/-- R24, with the clamp column of R81: `bits_32` of the exact result, or the operation's clamp value. -/
def Obligations.ResultIsExactBitsOrClampValue : Prop :=
  ∀ (i : Instr) (s : State),
    (fitsOutput i (exactResult i s.a s.b) = true →
      s.Gives i (BitVec.ofInt 32 (exactResult i s.a s.b)) true) ∧
    (fitsOutput i (exactResult i s.a s.b) = false →
      s.Gives i (clampValue i (exactResult i s.a s.b)) false)

/-- Saturation: `result`, read in the output type, is the representable value nearest to the exact result. -/
def Obligations.ResultIsNearestRepresentable : Prop :=
  ∀ (i : Instr) (s : State), ∃ r k, s.Gives i r k ∧
    (i.signedness = .signed → r.toInt = max (-2147483648) (min 2147483647 (exactResult i s.a s.b))) ∧
    (i.signedness = .unsigned → (r.toNat : Int) = max 0 (min 4294967295 (exactResult i s.a s.b)))

/-- R45: inputs that differ only in bits the operation does not use give the same outputs. -/
def Obligations.UnusedBitsHaveNoEffect : Prop :=
  ∀ (op : OpSel) (a a' : DWord) (b b' : Word),
    (famField op = 0b00#2 ∨ famField op = 0b01#2 → a.extractLsb' 0 32 = a'.extractLsb' 0 32 →
      eval op a b = eval op a' b) ∧
    (famField op = 0b10#2 → eval op a b = eval op a b')

/-- R27: a step's answer depends on the current inputs only, not on what an earlier evaluation left on the outputs. -/
def Obligations.OutputsIndependentOfHistory : Prop :=
  ∀ s t : State, s.inputs = t.inputs → step s = step t

/-- Evaluating the same inputs again changes nothing. That a step leaves the inputs as the host holds them is the model's
reading (log entry 8). -/
def Obligations.EvaluationIdempotent : Prop :=
  ∀ s t : State, step s = .next t → t.inputs = s.inputs ∧ step t = .next t

/-! ## The adder -/

/-- R53: both additions have the same 32 result bits, those of one adder. -/
def Obligations.OneAdderServesBothAdditions : Prop :=
  ∀ A B : Word,
    BitVec.ofInt 32 (A.toInt + B.toInt) = BitVec.ofNat 32 (A.toNat + B.toNat) ∧
    (adder A B).sum = BitVec.ofNat 32 (A.toNat + B.toNat) ∧
    ((adder A B).carryOut = true ↔ A.toNat + B.toNat ≥ 2 ^ 32) ∧
    ((signedAdd32 A B).ok = true → (signedAdd32 A B).result = (adder A B).sum) ∧
    ((unsignedAdd32 A B).ok = true → (unsignedAdd32 A B).result = (adder A B).sum)

/-- R55: the source's conditions on the wrapped sum select exactly the overflow cases; on the exact sum they would
never fire. -/
def Obligations.SourceSignedConditionsSelectOverflow : Prop :=
  ∀ A B : Word,
    (sourcePositiveOverflow A B = true ↔ A.toInt + B.toInt > 2147483647) ∧
    (sourceNegativeOverflow A B = true ↔ A.toInt + B.toInt < -2147483648) ∧
    (sourcePositiveOverflow A B = true ↔ signedAdd32 A B = ⟨0x7FFFFFFF#32, false⟩) ∧
    (sourceNegativeOverflow A B = true ↔ signedAdd32 A B = ⟨0x80000000#32, false⟩) ∧
    ¬(B.toInt > 0 ∧ A.toInt + B.toInt < A.toInt) ∧ ¬(B.toInt < 0 ∧ A.toInt + B.toInt > A.toInt)

/-- R56: the sign-bit form of signed addition. -/
def Obligations.SignBitTestEqualsSignedAdd : Prop :=
  ∀ A B : Word,
    (((signedAdd32 A B).ok = false) ↔ A.msb = B.msb ∧ (A + B).msb ≠ A.msb) ∧
    ((signedAdd32 A B).ok = false →
      (signedAdd32 A B).result = if A.msb then 0x80000000#32 else 0x7FFFFFFF#32) ∧
    signedAddGates A B = signedAdd32 A B

/-- R57: positive overflow needs two positive operands, negative overflow two negative ones, so never both. -/
def Obligations.OverflowDirectionsExclude : Prop :=
  ∀ A B : Word,
    (A.toInt + B.toInt > 2147483647 → A.toInt > 0 ∧ B.toInt > 0) ∧
    (A.toInt + B.toInt < -2147483648 → A.toInt < 0 ∧ B.toInt < 0) ∧
    (signedAdd32 A B = ⟨0x7FFFFFFF#32, false⟩ → A.toInt > 0 ∧ B.toInt > 0) ∧
    (signedAdd32 A B = ⟨0x80000000#32, false⟩ → A.toInt < 0 ∧ B.toInt < 0)

/-- R60: the source's unsigned condition, either half of it, and the carry out are the same test. -/
def Obligations.SourceUnsignedConditionIsCarry : Prop :=
  ∀ A B : Word,
    let c : Nat := (A.toNat + B.toNat) % 2 ^ 32
    (c < A.toNat ↔ A.toNat + B.toNat > 4294967295) ∧
    (c < B.toNat ↔ A.toNat + B.toNat > 4294967295) ∧
    ((adder A B).carryOut = true ↔ A.toNat + B.toNat > 4294967295) ∧
    (sourceUnsignedOverflow A B = true ↔ (unsignedAdd32 A B).ok = false)

/-- R61: both additions commute in both outputs, whatever stands on the unused bits. -/
def Obligations.AdditionsCommute : Prop :=
  ∀ (u : BitVec 1) (hi hi' A B : Word),
    eval (0b00#2 ++ u) (hi ++ A) B = eval (0b00#2 ++ u) (hi' ++ B) A

/-! ## The narrowing mux and the multiplier -/

/-- R63: the three conditions of the sign-extend path are equal, and its result. -/
def Obligations.SignExtendPathTests : Prop :=
  ∀ N : DWord,
    let fits := (N.extractLsb' 0 32).signExtend 64 = N
    (fits ↔ N.extractLsb' 31 33 = 0#33 ∨ N.extractLsb' 31 33 = BitVec.allOnes 33) ∧
    (fits ↔ -2147483648 ≤ N.toInt ∧ N.toInt ≤ 2147483647) ∧
    (fits → signExtendPath N = ⟨N.extractLsb' 0 32, true⟩) ∧
    (¬fits → N.msb = false → signExtendPath N = ⟨0x7FFFFFFF#32, false⟩) ∧
    (¬fits → N.msb = true → signExtendPath N = ⟨0x80000000#32, false⟩) ∧
    narrowS64To32 N = signExtendPath N

/-- R64: the three conditions of the zero-extend path are equal, and its result. -/
def Obligations.ZeroExtendPathTests : Prop :=
  ∀ N : DWord,
    let fits := (N.extractLsb' 0 32).setWidth 64 = N
    (fits ↔ N.extractLsb' 32 32 = 0#32) ∧
    (fits ↔ N.toNat ≤ 4294967295) ∧
    (fits → zeroExtendPath N = ⟨N.extractLsb' 0 32, true⟩) ∧
    (¬fits → zeroExtendPath N = ⟨0xFFFFFFFF#32, false⟩) ∧
    narrowU64To32 N = zeroExtendPath N

/-- R67: on every overflowing input the sign of the input, its sign bit and the direction of the overflow choose the
same clamp. -/
def Obligations.NarrowClampFollowsInputSign : Prop :=
  ∀ W : DWord, (narrowS64To32 W).ok = false →
    (W.toInt > 2147483647 ∨ W.toInt < -2147483648) ∧
    (narrowS64To32 W).result = (if W.toInt ≥ 0 then 0x7FFFFFFF#32 else 0x80000000#32) ∧
    (narrowS64To32 W).result = (if W.msb = false then 0x7FFFFFFF#32 else 0x80000000#32)

/-- R69: narrowing a value of the narrower range is exact and widens back. -/
def Obligations.NarrowingRoundTrip : Prop :=
  ∀ (v : Int) (s : State), s.a = BitVec.ofInt 64 v →
    (-2147483648 ≤ v → v ≤ 2147483647 →
      ∃ r : Word, s.Gives .narrowS64To32 r true ∧ r.toInt = v ∧ r.signExtend 64 = s.a) ∧
    (0 ≤ v → v ≤ 4294967295 →
      ∃ r : Word, s.Gives .narrowU64To32 r true ∧ (r.toNat : Int) = v ∧ r.setWidth 64 = s.a)

/-- R70: narrowing a value outside the narrower range clamps to the bound on its side. -/
def Obligations.NarrowingClamps : Prop :=
  ∀ s : State,
    (s.a.toInt > 2147483647 → s.Gives .narrowS64To32 0x7FFFFFFF#32 false) ∧
    (s.a.toInt < -2147483648 → s.Gives .narrowS64To32 0x80000000#32 false) ∧
    (s.a.toNat > 4294967295 → s.Gives .narrowU64To32 0xFFFFFFFF#32 false)

/-- R72 and R73: the product of the promoted operands is the exact product, with its bounds. -/
def Obligations.ProductNeverWraps : Prop :=
  (∀ A B : Word,
    product .unsigned A B = A.setWidth 64 * B.setWidth 64 ∧
    (product .unsigned A B).toNat = A.toNat * B.toNat ∧ A.toNat * B.toNat ≤ 2 ^ 64 - 2 ^ 33 + 1 ∧
    product .signed A B = A.signExtend 64 * B.signExtend 64 ∧
    (product .signed A B).toInt = A.toInt * B.toInt ∧
    -2 ^ 62 + 2 ^ 31 ≤ A.toInt * B.toInt ∧ A.toInt * B.toInt ≤ 2 ^ 62) ∧
  (product .signed 0x80000000#32 0x7FFFFFFF#32).toInt = -2 ^ 62 + 2 ^ 31 ∧
  (product .signed 0x80000000#32 0x80000000#32).toInt = 2 ^ 62

/-- R75: the clamp of `signedMul32` follows the sign of the true product, which is also the product's top bit and the
exclusive or of the operands' sign bits. -/
def Obligations.SignedMulClampFollowsProductSign : Prop :=
  ∀ A B : Word,
    ((signedMul32 A B).ok = false →
      (A.toInt * B.toInt > 0 ∧ (signedMul32 A B).result = 0x7FFFFFFF#32 ∧ (product .signed A B).msb = false) ∨
      (A.toInt * B.toInt < 0 ∧ (signedMul32 A B).result = 0x80000000#32 ∧ (product .signed A B).msb = true)) ∧
    (A ≠ 0#32 → B ≠ 0#32 → (A.toInt * B.toInt < 0 ↔ (A.msb ^^ B.msb) = true)) ∧
    (A.toInt * B.toInt = 0 → (signedMul32 A B).ok = true)

/-- R77: `unsignedMul32` is `narrowU64To32` of the widened product, whatever stands on the unused bits. -/
def Obligations.UnsignedMulIsNarrowedProduct : Prop :=
  ∀ (a : DWord) (b b' : Word),
    eval 0b011#3 a b = eval 0b101#3 ((a.extractLsb' 0 32).setWidth 64 * b.setWidth 64) b'

/-- R78: `signedMul32` is `narrowS64To32` of the 64-bit signed product, whatever stands on the unused bits. -/
def Obligations.SignedMulIsNarrowedProduct : Prop :=
  ∀ (a : DWord) (b b' : Word),
    eval 0b010#3 a b = eval 0b100#3 (BitVec.ofInt 64 ((a.extractLsb' 0 32).toInt * b.toInt)) b'

/-- R79: both multiplications commute in both outputs, whatever stands on the unused bits. -/
def Obligations.MultiplicationsCommute : Prop :=
  ∀ (u : BitVec 1) (hi hi' A B : Word),
    eval (0b01#2 ++ u) (hi ++ A) B = eval (0b01#2 ++ u) (hi' ++ B) A

/-- The whole gate-level block, adder, multiplier and shared narrowing mux, is the unit's function on every input. -/
def Obligations.DatapathEqualsEval : Prop :=
  ∀ (op : BitVec 3) (a : BitVec 64) (b : BitVec 32), datapath op a b = eval op a b

/-! ## The host, the outputs over time, and several units -/

/-- The invariant of the ports holds at power-up, where the outputs are those of the inputs. That the inputs are zero
there is the model's choice (log entry 2), and the outputs are deduced from it (log entry 3). -/
def Obligations.ResetOutputsFollowInputs : Prop :=
  State.reset.Faithful ∧
  ∃ o, State.reset.sample = some o ∧ eval State.reset.op State.reset.a State.reset.b = .ok (o.result, o.ok)

/-- Every step from a faithful state ends in a faithful state: the outputs on show are the function of the inputs on
show. -/
def Obligations.StepKeepsOutputsFaithful : Prop :=
  ∀ s t : State, s.Faithful → step s = .next t → t.Faithful ∧ t.sample.isSome = true

/-- Every session of host moves from a faithful state ends in a faithful state. That a host who presents new inputs before
it samples has a move at all, and that presenting makes the outputs absent and so never stale, is the model's choice
(DESIGN CHOICE, log entry 4; R94 gives the spec's model no such move). -/
def Obligations.SessionsKeepOutputsFaithful : Prop :=
  ∀ (ms : List HostMove) (s t : State), s.Faithful → runMoves ms s = .next t → t.Faithful

/-- Presenting inputs leaves the outputs unspecified until the unit has evaluated them, and then the host samples the
function of what it presented. That unspecified outputs are absent is the model's choice (DESIGN CHOICE, log entry 4). -/
def Obligations.HostSamplesEvalOfPresentedInputs : Prop :=
  ∀ (x : Inputs) (s : State),
    (s.present x).sample = none ∧ (s.present x).inputs = x ∧
    (opWellFormed x.op = true → ∃ t o, evaluate x s = .next t ∧ t.inputs = x ∧ t.sample = some o ∧
      eval x.op x.a x.b = .ok (o.result, o.ok)) ∧
    (opWellFormed x.op = false → evaluate x s = .refused (.reservedOp x.op))

/-- Whatever requests any callers make of any units in whatever order, each gets the function of its own inputs. That
whole requests are served one at a time, in the order of a list, is the model's choice (DESIGN CHOICE, log entry 12). -/
def Obligations.AnyInterleavingAnswersEval : Prop :=
  ∀ (rs : List Request) (us : List State),
    (serveAll rs us).1 = rs.map fun r =>
      if r.unit < us.length then
        some ((eval r.inputs.op r.inputs.a r.inputs.b).map fun o => ⟨o.1, o.2⟩)
      else none

/-- Serving a request leaves every other unit as it was, and requests to different units can change places as far as the
units they leave go (their answers: `AnyInterleavingAnswersEval`). That whole requests are served in the order of a list
is the model's choice (DESIGN CHOICE, log entry 12), and so is the state that a refused request leaves in its unit
(DESIGN CHOICE, log entry 11). -/
def Obligations.UnitsShareNothing : Prop :=
  ∀ (r q : Request) (us : List State),
    (∀ k, k ≠ r.unit → (serve r us).2[k]? = us[k]?) ∧
    (r.unit ≠ q.unit → (serve q (serve r us).2).2 = (serve r (serve q us).2).2)

/-! ## The notation and the source's cases -/

/-- A line of the notation assembles exactly when it is well formed; its operation decodes back, its literals read back
from the ports, and the unused port bits are zero. -/
def Obligations.AssembledLineReadsBack : Prop :=
  (∀ l : Line, (assemble l).isSome = l.wellFormed) ∧
  (∀ (i : Instr) (x y : Literal) (p : Inputs), assemble (.two i x y) = some p →
    decode p.op = .ok i ∧ p.a.extractLsb' 32 32 = 0#32 ∧
    (i.signedness = .signed → (p.a.extractLsb' 0 32).toInt = x.value ∧ p.b.toInt = y.value) ∧
    (i.signedness = .unsigned → ((p.a.extractLsb' 0 32).toNat : Int) = x.value ∧ (p.b.toNat : Int) = y.value)) ∧
  (∀ (i : Instr) (x : Literal) (p : Inputs), assemble (.one i x) = some p →
    decode p.op = .ok i ∧ p.b = 0#32 ∧
    (i.signedness = .signed → p.a.toInt = x.value) ∧
    (i.signedness = .unsigned → (p.a.toNat : Int) = x.value))

/-- The six concrete cases of the source's own list, each one evaluation from the power-up state. -/
def Obligations.SourceConcreteCases : Prop :=
  evaluate ⟨0b000#3, 0x000000007FFFFFFF#64, 0x00000001#32⟩ State.reset =
    .next ⟨0b000#3, 0x000000007FFFFFFF#64, 0x00000001#32, some ⟨0x7FFFFFFF#32, false⟩⟩ ∧
  evaluate ⟨0b001#3, 0x00000000FFFFFFFF#64, 0x00000001#32⟩ State.reset =
    .next ⟨0b001#3, 0x00000000FFFFFFFF#64, 0x00000001#32, some ⟨0xFFFFFFFF#32, false⟩⟩ ∧
  evaluate ⟨0b101#3, 0x0000000100000000#64, 0#32⟩ State.reset =
    .next ⟨0b101#3, 0x0000000100000000#64, 0#32, some ⟨0xFFFFFFFF#32, false⟩⟩ ∧
  evaluate ⟨0b100#3, 0xFFFFFFFF7FFFFFFF#64, 0#32⟩ State.reset =
    .next ⟨0b100#3, 0xFFFFFFFF7FFFFFFF#64, 0#32, some ⟨0x80000000#32, false⟩⟩ ∧
  evaluate ⟨0b011#3, 0x00000000FFFFFFFF#64, 0x00000002#32⟩ State.reset =
    .next ⟨0b011#3, 0x00000000FFFFFFFF#64, 0x00000002#32, some ⟨0xFFFFFFFF#32, false⟩⟩ ∧
  evaluate ⟨0b010#3, 0x00000000FFFFFFFF#64, 0x80000000#32⟩ State.reset =
    .next ⟨0b010#3, 0x00000000FFFFFFFF#64, 0x80000000#32, some ⟨0x7FFFFFFF#32, false⟩⟩
end

