-- ==== Sys2Proof/Config.lean ====
section
/-! DEFINITION. What an implementation of the unit fixes (spec R9, R100). The unit has no configuration
register and its clamp bounds are not programmable (R26), so the settling time is the only open parameter. -/

namespace Sys2Proof

/-- `T_settle`, the time from stable inputs to settled outputs (R9, R98, R100; D10). It takes no operand and no
`op`: its bound does not depend on them (R100). Opaque, because the spec leaves it open; no rule of the model reads
it (R100, log entry 5). -/
opaque Config.tSettle : Nat

end Sys2Proof
end

