-- ==== Sys2Proof/Laws/Flags.lean ====
section
/-! SUPPORT. Everything the two clamps can answer. -/

namespace Sys2Proof.Machine

theorem fitsS32_iff (n : Int) : fitsS32 n = true ↔ int32Min ≤ n ∧ n ≤ int32Max := by simp [fitsS32]

theorem fitsU32_iff (n : Int) : fitsU32 n = true ↔ 0 ≤ n ∧ n ≤ uint32Max := by simp [fitsU32]

theorem clampSigned_above {n : Int} (h : n > int32Max) (fit : Word) :
    clampSigned n fit = ⟨clampMaxSigned, false⟩ := by simp [clampSigned, h]

theorem clampSigned_below {n : Int} (h : n < int32Min) (fit : Word) :
    clampSigned n fit = ⟨clampMinSigned, false⟩ := by
  have : ¬n > int32Max := by simp only [int32Max, int32Min] at *; omega
  simp [clampSigned, h, this]

theorem clampSigned_fits {n : Int} (hl : int32Min ≤ n) (hu : n ≤ int32Max) (fit : Word) :
    clampSigned n fit = ⟨fit, true⟩ := by
  simp [clampSigned, not_lt.mpr hl, not_lt.mpr hu]

theorem clampUnsigned_above {n : Int} (h : n > uint32Max) (fit : Word) :
    clampUnsigned n fit = ⟨clampMaxUnsigned, false⟩ := by simp [clampUnsigned, h]

theorem clampUnsigned_fits {n : Int} (h : n ≤ uint32Max) (fit : Word) :
    clampUnsigned n fit = ⟨fit, true⟩ := by simp [clampUnsigned, not_lt.mpr h]

/-- Everything `clampSigned` can answer, each with the condition under which it does. -/
theorem clampSigned_cases (n : Int) (fit : Word) :
    (n > int32Max ∧ clampSigned n fit = ⟨clampMaxSigned, false⟩) ∨
    (n < int32Min ∧ clampSigned n fit = ⟨clampMinSigned, false⟩) ∨
    (int32Min ≤ n ∧ n ≤ int32Max ∧ clampSigned n fit = ⟨fit, true⟩) := by
  rcases lt_or_ge int32Max n with h | h
  · exact .inl ⟨h, clampSigned_above h fit⟩
  · rcases lt_or_ge n int32Min with h' | h'
    · exact .inr (.inl ⟨h', clampSigned_below h' fit⟩)
    · exact .inr (.inr ⟨h', h, clampSigned_fits h' h fit⟩)

/-- Everything `clampUnsigned` can answer, each with the condition under which it does. -/
theorem clampUnsigned_cases (n : Int) (fit : Word) :
    (n > uint32Max ∧ clampUnsigned n fit = ⟨clampMaxUnsigned, false⟩) ∨
    (n ≤ uint32Max ∧ clampUnsigned n fit = ⟨fit, true⟩) := by
  rcases lt_or_ge uint32Max n with h | h
  · exact .inl ⟨h, clampUnsigned_above h fit⟩
  · exact .inr ⟨h, clampUnsigned_fits h fit⟩

end Sys2Proof.Machine
end

