-- ==== Sys2Proof/Laws/Ops.lean ====
section
/-! SUPPORT. The notation of R11 against Lean's own `BitVec` functions, and the ranges of what it denotes. -/

namespace Sys2Proof.Machine

theorem uint_eq_toNat {n : Nat} (v : BitVec n) : uint v = v.toNat := rfl

/-- `sint` of R11 is Lean's two's-complement reading. -/
theorem sint_eq_toInt {n : Nat} (v : BitVec n) : sint v = v.toInt := by
  rw [sint, uint, BitVec.toInt_eq_msb_cond]
  cases v.msb <;> simp

/-- `bits_N` of R11 is Lean's truncation of an integer. -/
theorem bits_eq_ofInt (n : Nat) (x : Int) : bits n x = BitVec.ofInt n x := by
  apply BitVec.eq_of_toNat_eq
  rw [bits, BitVec.toNat_ofNat, BitVec.toNat_ofInt]
  have h : (0 : Int) < 2 ^ n := by positivity
  have := Int.emod_nonneg x h.ne'
  have := Int.emod_lt_of_pos x h
  rw [Nat.mod_eq_of_lt (by zify; omega)]
  norm_cast

/-- What `bits_N` is (R11): its `uint` is the integer modulo 2^N. -/
theorem uint_bits (n : Nat) (x : Int) : uint (bits n x) = x % 2 ^ n := by
  rw [bits_eq_ofInt, uint, BitVec.toNat_ofInt, Int.toNat_of_nonneg (Int.emod_nonneg _ (by positivity))]
  norm_cast

theorem trunc_eq_setWidth {n : Nat} (m : Nat) (v : BitVec n) : trunc m v = v.setWidth m := by
  apply BitVec.eq_of_toNat_eq
  simp [trunc]

theorem operandA_eq (a : DWord) : operandA a = a.extractLsb' 0 32 := rfl
theorem operandB_eq (b : Word) : operandB b = b := rfl
theorem operandW_eq (a : DWord) : operandW a = a := rfl

/-- Truncating the N-bit vector of an integer gives the shorter vector of it. -/
theorem trunc_bits {m n : Nat} (h : m ≤ n) (x : Int) : trunc m (bits n x) = bits m x := by
  apply BitVec.eq_of_toNat_eq
  rw [trunc_eq_setWidth, bits_eq_ofInt, bits_eq_ofInt, BitVec.toNat_setWidth, BitVec.toNat_ofInt, BitVec.toNat_ofInt]
  zify
  rw [Int.toNat_of_nonneg (Int.emod_nonneg _ (by positivity)), Int.toNat_of_nonneg (Int.emod_nonneg _ (by positivity))]
  exact Int.emod_emod_of_dvd x (pow_dvd_pow 2 h)

/-- `bits_N` undoes `sint`. -/
theorem bits_sint {n : Nat} (v : BitVec n) : bits n (sint v) = v := by
  rw [bits_eq_ofInt, sint_eq_toInt, BitVec.ofInt_toInt]

/-- `bits_N` undoes `uint`. -/
theorem bits_uint {n : Nat} (v : BitVec n) : bits n (uint v) = v := by
  apply BitVec.eq_of_toNat_eq
  rw [bits, BitVec.toNat_ofNat, uint]
  have := v.isLt
  rw [Int.emod_eq_of_lt (by omega) (by exact_mod_cast this)]
  simp [Nat.mod_eq_of_lt this]

/-- `sint` of a 32-bit vector lies in `S32` (R14). -/
theorem sint_word_range (v : Word) : int32Min ≤ sint v ∧ sint v ≤ int32Max := by
  rw [sint_eq_toInt, int32Min, int32Max]
  have := v.isLt
  rw [BitVec.toInt_eq_toNat_cond]
  split <;> omega

/-- `uint` of a 32-bit vector lies in `U32` (R14). -/
theorem uint_word_range (v : Word) : 0 ≤ uint v ∧ uint v ≤ uint32Max := by
  have := v.isLt
  rw [uint, uint32Max]
  omega

/-- `sint` of the 32-bit vector of an integer in `S32` is that integer. -/
theorem sint_bits_of_fits {x : Int} (hl : int32Min ≤ x) (hu : x ≤ int32Max) : sint (bits 32 x) = x := by
  rw [sint_eq_toInt, bits_eq_ofInt, BitVec.toInt_ofInt]
  rw [int32Min] at hl; rw [int32Max] at hu
  exact Int.bmod_eq_of_le (by omega) (by omega)

/-- `uint` of the 32-bit vector of an integer in `U32` is that integer. -/
theorem uint_bits_of_fits {x : Int} (hl : 0 ≤ x) (hu : x ≤ uint32Max) : uint (bits 32 x) = x := by
  rw [uint_bits]
  rw [uint32Max] at hu
  exact Int.emod_eq_of_lt hl (by omega)

end Sys2Proof.Machine
end

