-- ==== Sys2Proof/Laws/State.lean ====
section
/-! SUPPORT. One lemma per field of `State` per update of it, so that no later proof unfolds a record update. -/

namespace Sys2Proof.Machine

@[simp] theorem drive_op (s : State) (o : Outputs) : (s.drive o).op = s.op := rfl
@[simp] theorem drive_a (s : State) (o : Outputs) : (s.drive o).a = s.a := rfl
@[simp] theorem drive_b (s : State) (o : Outputs) : (s.drive o).b = s.b := rfl
@[simp] theorem drive_outputs (s : State) (o : Outputs) : (s.drive o).outputs = some o := rfl
@[simp] theorem drive_inputs (s : State) (o : Outputs) : (s.drive o).inputs = s.inputs := rfl
@[simp] theorem drive_sample (s : State) (o : Outputs) : (s.drive o).sample = some o := rfl
@[simp] theorem drive_drive (s : State) (o p : Outputs) : (s.drive o).drive p = s.drive p := rfl

@[simp] theorem present_op (x : Inputs) (s : State) : (s.present x).op = x.op := rfl
@[simp] theorem present_a (x : Inputs) (s : State) : (s.present x).a = x.a := rfl
@[simp] theorem present_b (x : Inputs) (s : State) : (s.present x).b = x.b := rfl
@[simp] theorem present_outputs (x : Inputs) (s : State) : (s.present x).outputs = none := rfl
@[simp] theorem present_inputs (x : Inputs) (s : State) : (s.present x).inputs = x := rfl
@[simp] theorem present_sample (x : Inputs) (s : State) : (s.present x).sample = none := rfl
@[simp] theorem present_drive (x : Inputs) (s : State) (o : Outputs) : (s.drive o).present x = s.present x := rfl

/-- A state is its inputs and its outputs. -/
theorem State.ext_inputs {s t : State} (hi : s.inputs = t.inputs) (ho : s.outputs = t.outputs) : s = t := by
  cases s; cases t
  simp_all [State.inputs]

end Sys2Proof.Machine
end

