-- ==== Sys2Proof/Laws/Step.lean ====
section
/-! SUPPORT. What a meaning, the decoder and a step can do, said once; later proofs cite these and do not unfold. -/

namespace Sys2Proof.Machine

/-- Every meaning drives the output ports with the operation's outputs and does nothing else. -/
theorem exec_eq_drive (i : Instr) (s : State) : exec i s = .next (s.drive (operate i s.a s.b)) := by
  cases i <;> rfl

/-- What the decoder answers: an operation for a well-formed `op`, the refusal of that `op` for another. -/
theorem decode_cases (op : OpSel) :
    (opWellFormed op = true ∧ ∃ i, decode op = .ok i) ∨
    (opWellFormed op = false ∧ decode op = .error (.reservedOp op)) := by
  have h : ∀ f, (∃ x, familyOf f = some x ∧ f ≠ 0b11#2) ∨ (familyOf f = none ∧ f = 0b11#2) := by decide
  have w : ∀ op : OpSel, opWellFormed op = true ↔ famField op ≠ 0b11#2 := by decide
  rcases h (famField op) with ⟨x, hx, hn⟩ | ⟨hx, hn⟩
  · exact .inl ⟨(w op).mpr hn, _, by rw [decode, hx]⟩
  · refine .inr ⟨?_, by rw [decode, hx]⟩
    rw [← Bool.not_eq_true, w, not_not]
    exact hn

/-- Everything a step can answer. -/
theorem step_cases (s : State) :
    (∃ i, decode s.op = .ok i ∧ step s = .next (s.drive (operate i s.a s.b))) ∨
    (decode s.op = .error (.reservedOp s.op) ∧ step s = .refused (.reservedOp s.op)) := by
  rcases decode_cases s.op with ⟨-, i, h⟩ | ⟨-, h⟩
  · exact .inl ⟨i, h, by rw [step, h]; exact exec_eq_drive i s⟩
  · exact .inr ⟨h, by rw [step, h]⟩

/-- What a step does when it answers a next state. -/
theorem step_next {s t : State} (h : step s = .next t) :
    ∃ i, decode s.op = .ok i ∧ t = s.drive (operate i s.a s.b) := by
  rcases step_cases s with ⟨i, hd, hs⟩ | ⟨-, hs⟩
  · rw [hs] at h
    exact ⟨i, hd, by injection h with h; exact h.symm⟩
  · rw [hs] at h
    nomatch h

/-- `eval` where the decoder finds an operation. -/
theorem eval_of_decode {op : OpSel} {i : Instr} (h : decode op = .ok i) (a : DWord) (b : Word) :
    eval op a b = .ok ((operate i a b).result, (operate i a b).ok) := by rw [eval, h]

/-- `eval` where the decoder finds none. -/
theorem eval_of_reserved {op : OpSel} (h : decode op = .error (.reservedOp op)) (a : DWord) (b : Word) :
    eval op a b = .error (.reservedOp op) := by rw [eval, h]

/-- `Gives` is about the outputs of the operation. -/
theorem gives_iff (s : State) (i : Instr) (r : Word) (k : Bool) :
    s.Gives i r k ↔ operate i s.a s.b = ⟨r, k⟩ := by
  rw [State.Gives, exec_eq_drive]
  simp [State.drive]

/-- An operation gives its outputs, on every state. -/
theorem gives_operate (s : State) (i : Instr) : s.Gives i (operate i s.a s.b).result (operate i s.a s.b).ok :=
  (gives_iff s i _ _).mpr rfl

/-- Every signed operation clamps its exact result, or passes its low 32 bits (R24). -/
theorem operate_signed {i : Instr} (h : i.signedness = .signed) (a : DWord) (b : Word) :
    operate i a b = clampSigned (exactResult i a b) (bits 32 (exactResult i a b)) := by
  have h64 : 32 ≤ 64 := by norm_num
  cases i
  case signedAdd32 => rfl
  case signedMul32 => simp only [operate, signedMul32, exactResult]; rw [trunc_bits h64]
  case narrowS64To32 => simp only [operate, narrowS64To32, exactResult]; rw [← trunc_bits h64, bits_sint]
  all_goals simp [Instr.signedness] at h

/-- Every unsigned operation clamps its exact result, which is never negative, or passes its low 32 bits (R24). -/
theorem operate_unsigned {i : Instr} (h : i.signedness = .unsigned) (a : DWord) (b : Word) :
    0 ≤ exactResult i a b ∧
      operate i a b = clampUnsigned (exactResult i a b) (bits 32 (exactResult i a b)) := by
  have h64 : 32 ≤ 64 := by norm_num
  cases i
  case unsignedAdd32 => exact ⟨by simp only [exactResult, uint]; positivity, rfl⟩
  case unsignedMul32 =>
    refine ⟨by simp only [exactResult, uint]; positivity, ?_⟩
    simp only [operate, unsignedMul32, exactResult]; rw [trunc_bits h64]
  case narrowU64To32 =>
    refine ⟨by simp only [exactResult, uint]; positivity, ?_⟩
    simp only [operate, narrowU64To32, exactResult]; rw [← trunc_bits h64, bits_uint]
  all_goals simp [Instr.signedness] at h

end Sys2Proof.Machine
end

