-- ==== Sys2Proof/Laws/HostSide.lean ====
section
/-! SUPPORT. Everything a whole evaluation and a served request can answer. -/

namespace Sys2Proof.Machine

/-- Everything an evaluation can answer, whatever the unit showed before. -/
theorem evaluate_cases (x : Inputs) (s : State) :
    (∃ i, decode x.op = .ok i ∧ evaluate x s = .next ((s.present x).drive (operate i x.a x.b))) ∨
    (decode x.op = .error (.reservedOp x.op) ∧ evaluate x s = .refused (.reservedOp x.op)) :=
  step_cases (s.present x)

/-- Serving a request keeps the number of units. -/
theorem serve_length (r : Request) (us : List State) : (serve r us).2.length = us.length := by
  unfold serve
  split
  · rfl
  · next s h =>
    rcases evaluate_cases r.inputs s with ⟨i, -, he⟩ | ⟨-, he⟩ <;> rw [he] <;> simp

end Sys2Proof.Machine
end

