-- ==== Sys2Proof/Laws/PerInstr.lean ====
section
/-! SUPPORT. A law of every operation as syntax: its encoding has the fields its row of the opcode map gives it. -/

namespace Sys2Proof.Laws.EncodingFields

/-- The encoding of `i` holds the family bits of `i` in `op[2:1]` and its signedness bit in `op[0]` (R40, R42). -/
def Statement (i : Instr) : Prop :=
  famField (encode i) = i.family.bits ∧ uField (encode i) = i.signedness.bit ∧
    Instr.ofFields i.family i.signedness = i

theorem signedAdd32 : Statement .signedAdd32 := ⟨rfl, rfl, rfl⟩
theorem unsignedAdd32 : Statement .unsignedAdd32 := ⟨rfl, rfl, rfl⟩
theorem signedMul32 : Statement .signedMul32 := ⟨rfl, rfl, rfl⟩
theorem unsignedMul32 : Statement .unsignedMul32 := ⟨rfl, rfl, rfl⟩
theorem narrowS64To32 : Statement .narrowS64To32 := ⟨rfl, rfl, rfl⟩
theorem narrowU64To32 : Statement .narrowU64To32 := ⟨rfl, rfl, rfl⟩

end Sys2Proof.Laws.EncodingFields
end

