-- ==== Sys2Proof/Tests/Slice0.lean ====
section
/-! SUPPORT. Tests, each of one step or one decode: the expected values are the spec's own (95_test_vectors.md, or the
rule named). And witnesses: for every statement with hypotheses, concrete values that meet them. -/

namespace Sys2Proof.Tests

open Sys2Proof.Machine

/-- A state in which the host has presented `op`, `a`, `b`. -/
def st (op : OpSel) (a : DWord) (b : Word) : State := ⟨op, a, b, none⟩

/-- What one step from `st op a b` puts on the outputs. -/
def out (op : OpSel) (a : DWord) (b : Word) : Option Outputs :=
  match step (st op a b) with
  | .next t => t.sample
  | _ => none

/-- What one step from `st op a b` refuses with. -/
def refusal (op : OpSel) (a : DWord) (b : Word) : Option Refusal :=
  match step (st op a b) with
  | .refused r => some r
  | _ => none

/-! ## Well-formedness and decoding (R42, R47) -/

theorem test_wellFormed_refuses_110 : opWellFormed 0b110#3 = false := by decide
theorem test_wellFormed_refuses_111 : opWellFormed 0b111#3 = false := by decide
theorem test_wellFormed_accepts_101 : opWellFormed 0b101#3 = true := by decide
theorem test_decode_signedAdd32 : (decode 0b000#3).toOption = some .signedAdd32 := by decide
theorem test_decode_unsignedAdd32 : (decode 0b001#3).toOption = some .unsignedAdd32 := by decide
theorem test_decode_signedMul32 : (decode 0b010#3).toOption = some .signedMul32 := by decide
theorem test_decode_unsignedMul32 : (decode 0b011#3).toOption = some .unsignedMul32 := by decide
theorem test_decode_narrowS64To32 : (decode 0b100#3).toOption = some .narrowS64To32 := by decide
theorem test_decode_narrowU64To32 : (decode 0b101#3).toOption = some .narrowU64To32 := by decide
theorem test_decode_reserved : decode 0b110#3 = .error (.reservedOp 0b110#3) ∧
    decode 0b111#3 = .error (.reservedOp 0b111#3) := ⟨rfl, rfl⟩
theorem test_decodeTableWord : decodeTableWord 8 0x4 = some .narrowS64To32 ∧ decodeTableWord 8 0x6 = none ∧
    decodeTableWord 8 0x8 = none := by decide
theorem test_withFetchWord_from_reset :
    (match step (State.reset.withFetchWord 8 0x3) with | .next t => t.sample | _ => none) =
      some ⟨0#32, true⟩ := by decide

/-! ## The operations (95_test_vectors.md §2) -/

theorem test_signedAdd32_below : out 0b000#3 0x00000000BFFFFFFF#64 0xBFFFFFFF#32 = some ⟨0x80000000#32, false⟩ := by
  decide
theorem test_signedAdd32_high_bits_ignored : out 0b000#3 0xFFFFFFFF00000005#64 3#32 = some ⟨8#32, true⟩ := by decide
theorem test_unsignedAdd32_reaches_max : out 0b001#3 0x00000000FFFFFFFE#64 1#32 = some ⟨0xFFFFFFFF#32, true⟩ := by
  decide
theorem test_unsignedAdd32_high_bits_ignored :
    out 0b001#3 0xDEADBEEF00000001#64 0xFFFFFFFF#32 = some ⟨0xFFFFFFFF#32, false⟩ := by decide
theorem test_narrowS64To32_low_half_unused :
    out 0b100#3 0x00000000FFFFFFFF#64 0#32 = some ⟨0x7FFFFFFF#32, false⟩ := by decide
theorem test_narrowS64To32_b_ignored :
    out 0b100#3 0x0000000012345678#64 0xFFFFFFFF#32 = some ⟨0x12345678#32, true⟩ := by decide
theorem test_narrowU64To32_low_half_zero :
    out 0b101#3 0xFFFFFFFF00000000#64 0#32 = some ⟨0xFFFFFFFF#32, false⟩ := by decide
theorem test_narrowU64To32_b_ignored :
    out 0b101#3 0x0000000089ABCDEF#64 0x12345678#32 = some ⟨0x89ABCDEF#32, true⟩ := by decide
theorem test_signedMul32_mixed_signs : out 0b010#3 3#64 0xFFFFFFF9#32 = some ⟨0xFFFFFFEB#32, true⟩ := by decide
theorem test_signedMul32_below : out 0b010#3 0x00000000FFFF4AFB#64 0x0000B505#32 = some ⟨0x80000000#32, false⟩ := by
  decide
theorem test_unsignedMul32_exact : out 0b011#3 0x00010000#64 0x0000FFFF#32 = some ⟨0xFFFF0000#32, true⟩ := by decide
theorem test_unsignedMul32_clamps : out 0b011#3 0x12345678#64 0x10#32 = some ⟨0xFFFFFFFF#32, false⟩ := by decide
theorem test_reserved_refused : refusal 0b110#3 0#64 0#32 = some (.reservedOp 0b110#3) ∧
    refusal 0b111#3 0x7FFFFFFF#64 1#32 = some (.reservedOp 0b111#3) := by decide

/-! ## The notation (R50; the lines and port values are those of 95_test_vectors.md §3) -/

theorem test_readLine_two : readLine "signedAdd32 5, -0x10".toList = some (.two .signedAdd32 (.number 5) (.number (-16))) := by
  decide
theorem test_readLine_one : readLine "narrowU64To32 0x123456780".toList =
    some (.one .narrowU64To32 (.number 0x123456780)) := by decide
theorem test_readLine_constant : readLine "signedMul32 -1, INT32_MIN".toList =
    some (.two .signedMul32 (.number (-1)) .int32Min) := by decide
theorem test_readLine_no_mnemonic : readLine "saturate 1".toList = none ∧ readLine "signedAdd32".toList = none := by
  decide
theorem test_assemble_signed : assemble (.two .signedMul32 (.number (-0x10000)) (.number 0x8000)) =
    some ⟨0b010#3, 0x00000000FFFF0000#64, 0x00008000#32⟩ := by decide
theorem test_assemble_narrow : assemble (.one .narrowS64To32 (.number (-0x80000000))) =
    some ⟨0b100#3, 0xFFFFFFFF80000000#64, 0#32⟩ := by decide
theorem test_assemble_refuses_range : assemble (.two .signedAdd32 .uint32Max (.number 0)) = none ∧
    assemble (.two .unsignedAdd32 (.number 0) (.number (-1))) = none ∧
    assemble (.one .narrowU64To32 (.number (2 ^ 64))) = none := by decide
theorem test_assemble_refuses_operand_count : assemble (.one .signedAdd32 (.number 0)) = none ∧
    assemble (.two .narrowS64To32 (.number 0) (.number 0)) = none := by decide

/-! ## Witnesses for the hypotheses of the statements -/

theorem witness_decodeEncodeRoundTrip : decode 0b101#3 = .ok .narrowU64To32 := rfl

theorem witness_stepRunsDecodedInstruction : decode (st 0b010#3 0#64 0#32).op = .ok .signedMul32 ∧
    decodeTableWord 8 0x5 = some .narrowU64To32 := ⟨rfl, by decide⟩

theorem witness_stepRefusesExactlyReservedOps : (st 0b111#3 0#64 0#32).op = 0b111#3 ∧
    step (st 0b111#3 0#64 0#32) = .refused (.reservedOp 0b111#3) := ⟨rfl, rfl⟩

theorem witness_safe : (st 0b100#3 0#64 0#32).Safe ∧ ¬(st 0b110#3 0#64 0#32).Safe := by
  constructor <;> unfold State.Safe <;> decide

/-- `A.toInt + B.toInt` at the boundaries of every clause: just above, just below, and both ends of the range. -/
theorem witness_signedAdd32Result :
    (0x7FFFFFFF#32).toInt + (1#32).toInt = 2147483648 ∧
    (0x80000000#32).toInt + (0xFFFFFFFF#32).toInt = -2147483649 ∧
    (0x7FFFFFFE#32).toInt + (1#32).toInt = 2147483647 ∧
    (0x80000000#32).toInt + (0#32).toInt = -2147483648 ∧
    (0x40000000#32).toInt > 2 ^ 30 - 1 ∧ ¬(0x3FFFFFFF#32).toInt > 2 ^ 30 - 1 ∧
    (0xBFFFFFFF#32).toInt < -2 ^ 30 ∧ ¬(0xC0000000#32).toInt < -2 ^ 30 ∧
    (0x7FFFFFFF#32).msb ≠ (0x80000000#32).msb ∧
    (st 0#3 0xFFFFFFFF7FFFFFFF#64 0x80000000#32).a.extractLsb' 0 32 = 0x7FFFFFFF#32 ∧
    (st 0#3 0x0000000180000000#64 0x80000000#32).a.extractLsb' 0 32 = (st 0#3 0#64 0x80000000#32).b := by decide

theorem witness_unsignedAdd32Result :
    (0xFFFFFFFF#32).toNat + (1#32).toNat = 4294967296 ∧
    (0x7FFFFFFF#32).toNat + (0x80000000#32).toNat = 4294967295 ∧
    (0x80000000#32).toNat ≥ 2 ^ 31 ∧ ¬(0x7FFFFFFF#32).toNat ≥ 2 ^ 31 ∧
    (st 1#3 0x12345678FFFFFFFF#64 0xFFFFFFFF#32).a.extractLsb' 0 32 = 0xFFFFFFFF#32 ∧
    (st 1#3 0x0000000080000000#64 0#32).a.extractLsb' 0 32 = 0x80000000#32 := by decide

/-- The clauses on `r` of the unsigned operations: an overflow that gives a result. -/
theorem witness_unsigned_clamped :
    (st 1#3 0xFFFFFFFF#64 1#32).Gives .unsignedAdd32 0xFFFFFFFF#32 false ∧
    (st 3#3 0xFFFFFFFF#64 2#32).Gives .unsignedMul32 0xFFFFFFFF#32 false ∧
    (st 5#3 0x100000000#64 0#32).Gives .narrowU64To32 0xFFFFFFFF#32 false := ⟨rfl, rfl, rfl⟩

theorem witness_narrowResults :
    (0x0000000080000000#64).toInt = 2147483648 ∧ (0xFFFFFFFF7FFFFFFF#64).toInt = -2147483649 ∧
    (0x000000007FFFFFFF#64).toInt = 2147483647 ∧ (0xFFFFFFFF80000000#64).toInt = -2147483648 ∧
    (0x0000000100000000#64).toNat = 4294967296 ∧ (0x00000000FFFFFFFF#64).toNat = 4294967295 ∧
    (st 4#3 0x8000000000000000#64 0#32).a = 0x8000000000000000#64 := by decide

theorem witness_signedMul32Result :
    (0x00010000#32).toInt * (0x00008000#32).toInt = 2147483648 ∧
    (0xFFFF0000#32).toInt * (0x00008000#32).toInt = -2147483648 ∧
    (0xFFFF4AFB#32).toInt * (0x0000B505#32).toInt < -2147483648 ∧
    (0x7FFFFFFF#32).toInt * (1#32).toInt = 2147483647 ∧
    (st 2#3 0xABCD00000000B505#64 46341#32).a.extractLsb' 0 32 = (st 2#3 0#64 46341#32).b ∧
    (st 2#3 0x1234567880000000#64 2#32).a.extractLsb' 0 32 = 0x80000000#32 := by decide

theorem witness_signedSquare_clamped : (st 2#3 46341#64 46341#32).Gives .signedMul32 0x7FFFFFFF#32 false := rfl

theorem witness_unsignedMul32Result :
    (0x00010000#32).toNat * (0x00010000#32).toNat = 4294967296 ∧
    (0x0000FFFF#32).toNat * (0x00010001#32).toNat = 4294967295 ∧
    (st 3#3 0x9999999900010000#64 0#32).a.extractLsb' 0 32 = 0x00010000#32 := by decide

/-- Both cases of both signednesses. -/
theorem witness_resultIsExactBitsOrClampValue :
    fitsOutput .signedAdd32 (exactResult .signedAdd32 0x7FFFFFFE#64 1#32) = true ∧
    fitsOutput .signedMul32 (exactResult .signedMul32 0x80000000#64 0x80000000#32) = false ∧
    fitsOutput .narrowU64To32 (exactResult .narrowU64To32 0xFFFFFFFF#64 0#32) = true ∧
    fitsOutput .unsignedAdd32 (exactResult .unsignedAdd32 0xFFFFFFFF#64 1#32) = false := by decide

theorem witness_resultIsNearestRepresentable :
    Instr.signedMul32.signedness = .signed ∧ Instr.narrowU64To32.signedness = .unsigned := ⟨rfl, rfl⟩

theorem witness_unusedBitsHaveNoEffect :
    famField 0b001#3 = 0b00#2 ∧ famField 0b010#3 = 0b01#2 ∧ famField 0b101#3 = 0b10#2 ∧
    (0xFFFFFFFF00000005#64).extractLsb' 0 32 = (0x0000000000000005#64).extractLsb' 0 32 := by decide

/-- Two states with the same inputs and different histories. -/
theorem witness_outputsIndependentOfHistory :
    (⟨1#3, 2#64, 3#32, some ⟨7#32, false⟩⟩ : State).inputs = (st 1#3 2#64 3#32).inputs := rfl

theorem witness_evaluationIdempotent : step (st 1#3 2#64 3#32) = .next ⟨1#3, 2#64, 3#32, some ⟨5#32, true⟩⟩ := rfl

theorem witness_adder : (signedAdd32 3#32 4#32).ok = true ∧ (unsignedAdd32 3#32 4#32).ok = true := by decide

theorem witness_overflowDirections :
    signedAdd32 0x7FFFFFFF#32 1#32 = ⟨0x7FFFFFFF#32, false⟩ ∧
    signedAdd32 0x80000000#32 0xFFFFFFFF#32 = ⟨0x80000000#32, false⟩ := by decide

/-- Inputs inside and outside the range, of both signs, for the two paths. -/
theorem witness_narrowingPaths :
    ((0xFFFFFFFF80000000#64).extractLsb' 0 32).signExtend 64 = 0xFFFFFFFF80000000#64 ∧
    ¬((0x0000000080000000#64).extractLsb' 0 32).signExtend 64 = 0x0000000080000000#64 ∧
    ¬((0xFFFFFFFF7FFFFFFF#64).extractLsb' 0 32).signExtend 64 = 0xFFFFFFFF7FFFFFFF#64 ∧
    (0x0000000080000000#64).msb = false ∧ (0xFFFFFFFF7FFFFFFF#64).msb = true ∧
    ((0x00000000FFFFFFFF#64).extractLsb' 0 32).setWidth 64 = 0x00000000FFFFFFFF#64 ∧
    ¬((0x0000000100000000#64).extractLsb' 0 32).setWidth 64 = 0x0000000100000000#64 := by decide

theorem witness_narrowClampFollowsInputSign :
    (narrowS64To32 0x0000000080000000#64).ok = false ∧ (narrowS64To32 0xFFFFFFFF7FFFFFFF#64).ok = false := by decide

theorem witness_narrowingRoundTrip :
    (st 4#3 0xFFFFFFFF80000000#64 0#32).a = BitVec.ofInt 64 (-2147483648) ∧
    (st 5#3 0x00000000FFFFFFFF#64 0#32).a = BitVec.ofInt 64 4294967295 := by decide

theorem witness_signedMulClamp :
    (signedMul32 0x80000000#32 0xFFFFFFFF#32).ok = false ∧ (signedMul32 0x80000000#32 2#32).ok = false ∧
    (0xFFFFFFFF#32).toInt * (5#32).toInt < 0 ∧ (0#32).toInt * (5#32).toInt = 0 := by decide

theorem witness_faithful : State.reset.Faithful ∧
    step State.reset = .next ⟨0#3, 0#64, 0#32, some ⟨0#32, true⟩⟩ := by
  refine ⟨?_, rfl⟩
  intro o h
  cases h
  decide

theorem witness_session :
    runMoves [.present ⟨1#3, 2#64, 3#32⟩, .settle, .present ⟨6#3, 0#64, 0#32⟩] State.reset =
      .next ⟨6#3, 0#64, 0#32, none⟩ := rfl

theorem witness_hostSamples : opWellFormed (⟨0b011#3, 2#64, 3#32⟩ : Inputs).op = true ∧
    opWellFormed (⟨0b111#3, 2#64, 3#32⟩ : Inputs).op = false := by decide

theorem witness_unitsShareNothing :
    (⟨0, ⟨0#3, 1#64, 2#32⟩⟩ : Request).unit ≠ (⟨1, ⟨6#3, 1#64, 2#32⟩⟩ : Request).unit ∧
    (serve ⟨1, ⟨1#3, 1#64, 2#32⟩⟩ [State.reset, State.reset]).2[0]? = some State.reset := by decide

theorem witness_assembledLine :
    assemble (.two .signedAdd32 (.number (-1)) .int32Max) = some ⟨0#3, 0xFFFFFFFF#64, 0x7FFFFFFF#32⟩ ∧
    assemble (.two .unsignedMul32 .uint32Max (.number 2)) = some ⟨3#3, 0xFFFFFFFF#64, 2#32⟩ ∧
    assemble (.one .narrowS64To32 (.number (-1))) = some ⟨4#3, 0xFFFFFFFFFFFFFFFF#64, 0#32⟩ ∧
    assemble (.one .narrowU64To32 .uint32Max) = some ⟨5#3, 0xFFFFFFFF#64, 0#32⟩ := by decide

end Sys2Proof.Tests
end

section
/-! Saturation (R15, R23): what each of the two clamps, read in its output type, answers for an exact result. -/

namespace Sys2Proof.Machine

/-- The signed clamp of `n`, read as signed, is the value of `S32` nearest to `n`. -/
theorem sint_result_clampSigned (n : Int) :
    sint (clampSigned n (bits 32 n)).result = max int32Min (min int32Max n) := by
  have hbounds : int32Min ≤ int32Max := by decide
  rcases clampSigned_cases n (bits 32 n) with ⟨habove, heq⟩ | ⟨hbelow, heq⟩ | ⟨hlo, hhi, heq⟩
  · have hmax : sint clampMaxSigned = int32Max := by decide
    rw [heq, hmax, min_eq_left habove.le, max_eq_right hbounds]
  · have hmin : sint clampMinSigned = int32Min := by decide
    rw [heq, hmin, min_eq_right (hbelow.le.trans hbounds), max_eq_left hbelow.le]
  · rw [heq, sint_bits_of_fits hlo hhi, min_eq_right hhi, max_eq_right hlo]

/-- The unsigned clamp of `n`, read as unsigned, is the value of `U32` nearest to `n`. It never clamps to 0, so this
needs that `n` is not negative. -/
theorem uint_result_clampUnsigned {n : Int} (hn : 0 ≤ n) :
    uint (clampUnsigned n (bits 32 n)).result = max 0 (min uint32Max n) := by
  rcases clampUnsigned_cases n (bits 32 n) with ⟨habove, heq⟩ | ⟨hhi, heq⟩
  · have hmax : uint clampMaxUnsigned = uint32Max := by decide
    have hbounds : 0 ≤ uint32Max := by decide
    rw [heq, hmax, min_eq_left habove.le, max_eq_right hbounds]
  · rw [heq, uint_bits_of_fits hn hhi, min_eq_right hhi, max_eq_right hn]

/-- Settles O16: every operation drives its exact result through the clamp of its signedness. -/
theorem resultIsNearestRepresentable : Obligations.ResultIsNearestRepresentable := by
  intro i s
  refine ⟨_, _, gives_operate s i, fun hsigned => ?_, fun hunsigned => ?_⟩
  · rw [operate_signed hsigned, ← sint_eq_toInt]
    exact sint_result_clampSigned _
  · obtain ⟨hnonneg, heq⟩ := operate_unsigned hunsigned s.a s.b
    rw [heq, ← uint_eq_toNat]
    exact uint_result_clampUnsigned hnonneg

end Sys2Proof.Machine
end

section
/-! The one evaluation (R17, R27, R37, R39): a step runs the operation on `op`, and is a function of the inputs. -/

namespace Sys2Proof.Machine

/-! ### From a decoded operation back to `op` -/

/-- The named values of `fam` are read from their own bits (R40). -/
theorem bits_of_familyOf {x : BitVec 2} {f : Family} (h : familyOf x = some f) : f.bits = x := by
  have hall : ∀ x, (familyOf x).map Family.bits = if x = 0b11#2 then none else some x := by decide
  have hx := hall x
  rw [h] at hx
  split at hx
  · nomatch hx
  · exact Option.some.inj hx

theorem bit_signednessOf : ∀ u : BitVec 1, (signednessOf u).bit = u := by decide

/-- The two fields make up the whole of `op` (R40). -/
theorem famField_append_uField : ∀ op : OpSel, famField op ++ uField op = op := by decide

theorem encode_ofFields (f : Family) (u : Signedness) : encode (Instr.ofFields f u) = f.bits ++ u.bit := by
  cases f <;> cases u <;> rfl

/-- Only the encoding of an operation decodes to it (R42, R49). -/
theorem encode_of_decode {op : OpSel} {i : Instr} (h : decode op = .ok i) : encode i = op := by
  rw [decode] at h
  split at h
  · next f hf =>
    rw [← Except.ok.inj h, encode_ofFields, bits_of_familyOf hf, bit_signednessOf, famField_append_uField]
  · nomatch h

/-- A table word that reads as an operation is one whose low bits decode to it. -/
theorem decode_of_decodeTableWord {nbits w : Nat} {i : Instr} (h : decodeTableWord nbits w = some i) :
    decode (BitVec.ofNat 3 (w % 2 ^ nbits)) = .ok i := by
  simp only [decodeTableWord] at h
  split at h
  · split at h
    · next hd => rw [hd, Option.some.inj h]
    · nomatch h
  · nomatch h

/-! ### The step -/

theorem step_eq_exec {s : State} {i : Instr} (h : decode s.op = .ok i) : step s = exec i s := by
  rw [step, h]

/-- A table word that reads as `i` puts the encoding of `i` on `op`. -/
theorem withFetchWord_of_decodeTableWord {nbits w : Nat} {i : Instr} (h : decodeTableWord nbits w = some i)
    (s : State) : s.withFetchWord nbits w = ⟨encode i, s.a, s.b, none⟩ := by
  rw [encode_of_decode (decode_of_decodeTableWord h)]
  rfl

/-- Settles O3: the decoder's answer selects the arm of the step, and a table word is decoded from the bits it puts on
`op`, which are the encoding of its operation. -/
theorem stepRunsDecodedInstruction : Obligations.StepRunsDecodedInstruction := by
  refine ⟨fun _ _ => step_eq_exec, fun s w i h => ?_⟩
  have hop : decode (s.withFetchWord 8 w).op = .ok i := decode_of_decodeTableWord h
  rw [step_eq_exec hop, withFetchWord_of_decodeTableWord h]

/-- Settles O7: the step and `eval` go by the same answer of the decoder. -/
theorem stepIsEvalOfInputs : Obligations.StepIsEvalOfInputs := by
  intro s
  rcases step_cases s with ⟨i, hdecode, hstep⟩ | ⟨hdecode, hstep⟩
  · rw [hstep, eval_of_decode hdecode]
    rfl
  · rw [hstep, eval_of_reserved hdecode]

/-- Settles O18: `eval` sees the inputs only, and what the step keeps of the state beside its answer is the inputs. -/
theorem outputsIndependentOfHistory : Obligations.OutputsIndependentOfHistory := by
  intro s t h
  have hop : s.op = t.op := congrArg Inputs.op h
  have ha : s.a = t.a := congrArg Inputs.a h
  have hb : s.b = t.b := congrArg Inputs.b h
  rw [stepIsEvalOfInputs s, stepIsEvalOfInputs t, hop, ha, hb]

end Sys2Proof.Machine
end

section
/-! The outputs of an operation by whether its exact result fits (R21, R24, R81). -/

namespace Sys2Proof.Machine

theorem fitsOutput_signed {i : Instr} (h : i.signedness = .signed) (n : Int) : fitsOutput i n = fitsS32 n := by
  rw [fitsOutput, h]

theorem fitsOutput_unsigned {i : Instr} (h : i.signedness = .unsigned) (n : Int) : fitsOutput i n = fitsU32 n := by
  rw [fitsOutput, h]

/-- The output type of an operation (R14), with its bounds as numerals. -/
theorem fitsOutput_iff (i : Instr) (n : Int) :
    fitsOutput i n = true ↔
      (i.signedness = .signed ∧ -2147483648 ≤ n ∧ n ≤ 2147483647) ∨
      (i.signedness = .unsigned ∧ 0 ≤ n ∧ n ≤ 4294967295) := by
  cases h : i.signedness with
  | signed => simp [fitsOutput_signed h, fitsS32_iff, int32Min, int32Max]
  | unsigned => simp [fitsOutput_unsigned h, fitsU32_iff, uint32Max]

/-! ### The clamp column of R81, in which each signed operation has a test of its own -/

theorem clampValue_above {i : Instr} (h : i.signedness = .signed) {n : Int} (hn : n > int32Max) :
    clampValue i n = clampMaxSigned := by
  have hpos : n > 0 := lt_trans (by decide) hn
  cases i
  case signedAdd32 => exact if_pos hn
  case signedMul32 => exact if_pos hpos
  case narrowS64To32 => exact if_pos hpos.le
  all_goals nomatch h

theorem clampValue_below {i : Instr} (h : i.signedness = .signed) {n : Int} (hn : n < int32Min) :
    clampValue i n = clampMinSigned := by
  have hneg : n < 0 := lt_trans hn (by decide)
  have hmax : n < int32Max := lt_trans hn (by decide)
  cases i
  case signedAdd32 => exact if_neg hmax.not_gt
  case signedMul32 => exact if_neg hneg.not_gt
  case narrowS64To32 => exact if_neg hneg.not_ge
  all_goals nomatch h

theorem clampValue_unsigned {i : Instr} (h : i.signedness = .unsigned) (n : Int) :
    clampValue i n = clampMaxUnsigned := by
  cases i
  case unsignedAdd32 | unsignedMul32 | narrowU64To32 => rfl
  all_goals nomatch h

/-! ### The two cases of R24 -/

/-- An exact result that fits goes to `result` with `ok` set. -/
theorem operate_of_fits {i : Instr} {a : DWord} {b : Word} (hfits : fitsOutput i (exactResult i a b) = true) :
    operate i a b = ⟨bits 32 (exactResult i a b), true⟩ := by
  cases h : i.signedness with
  | signed =>
    rw [fitsOutput_signed h, fitsS32_iff] at hfits
    rw [operate_signed h, clampSigned_fits hfits.1 hfits.2]
  | unsigned =>
    rw [fitsOutput_unsigned h, fitsU32_iff] at hfits
    rw [(operate_unsigned h a b).2, clampUnsigned_fits hfits.2]

/-- An exact result that does not fit is clamped with `ok` clear. -/
theorem operate_of_not_fits {i : Instr} {a : DWord} {b : Word} (hfits : fitsOutput i (exactResult i a b) = false) :
    operate i a b = ⟨clampValue i (exactResult i a b), false⟩ := by
  rw [← Bool.not_eq_true] at hfits
  cases h : i.signedness with
  | signed =>
    rw [fitsOutput_signed h, fitsS32_iff] at hfits
    rw [operate_signed h]
    rcases clampSigned_cases (exactResult i a b) (bits 32 (exactResult i a b)) with
      ⟨habove, heq⟩ | ⟨hbelow, heq⟩ | ⟨hlo, hhi, -⟩
    · rw [heq, clampValue_above h habove]
    · rw [heq, clampValue_below h hbelow]
    · exact absurd ⟨hlo, hhi⟩ hfits
  | unsigned =>
    rw [fitsOutput_unsigned h, fitsU32_iff] at hfits
    obtain ⟨hnonneg, heq⟩ := operate_unsigned h a b
    have habove : exactResult i a b > uint32Max := not_le.mp fun hhi => hfits ⟨hnonneg, hhi⟩
    rw [heq, clampUnsigned_above habove, clampValue_unsigned h]

/-- The flag says whether the exact result fits. -/
theorem operate_ok (i : Instr) (a : DWord) (b : Word) :
    (operate i a b).ok = fitsOutput i (exactResult i a b) := by
  cases hfits : fitsOutput i (exactResult i a b) with
  | true => rw [operate_of_fits hfits]
  | false => rw [operate_of_not_fits hfits]

/-- Settles O14: `ok` is the test whether the exact result lies in the output type. -/
theorem okExactlyWhenExactResultFits : Obligations.OkExactlyWhenExactResultFits := by
  intro i s
  refine ⟨_, _, gives_operate s i, ?_⟩
  rw [operate_ok, fitsOutput_iff]

/-- Settles O15: by the two cases of R24 for the operation's outputs. -/
theorem resultIsExactBitsOrClampValue : Obligations.ResultIsExactBitsOrClampValue := by
  refine fun i s => ⟨fun hfits => ?_, fun hfits => ?_⟩
  · rw [gives_iff, operate_of_fits hfits, bits_eq_ofInt]
  · rw [gives_iff, operate_of_not_fits hfits]

end Sys2Proof.Machine
end

section
/-! Evaluating again, and several units (R34, R36, R91): an evaluation leaves nothing behind that a later one reads. -/

namespace Sys2Proof.Machine

/-- Settles O19: the second step runs the same operation on the same operands, and driving the outputs twice is driving
them once. -/
theorem evaluationIdempotent : Obligations.EvaluationIdempotent := by
  intro s t h
  obtain ⟨i, hdecode, rfl⟩ := step_next h
  refine ⟨drive_inputs s _, ?_⟩
  have hop : decode (s.drive (operate i s.a s.b)).op = .ok i := hdecode
  rw [step_eq_exec hop, exec_eq_drive, drive_a, drive_b, drive_drive]

/-! ### A served request as a function of its inputs -/

/-- The answer to a request for `x` at any unit (R17): the outputs, or the refusal. -/
def answerTo (x : Inputs) : Except Refusal Outputs := (eval x.op x.a x.b).map fun o => ⟨o.1, o.2⟩

/-- What a request for `x` leaves in its unit, whatever the unit held: the presented inputs, and the outputs if there
are any (log entries 8 and 11). -/
def unitAfter (x : Inputs) : State := ⟨x.op, x.a, x.b, (answerTo x).toOption⟩

theorem answerTo_of_decode {x : Inputs} {i : Instr} (h : decode x.op = .ok i) :
    answerTo x = .ok (operate i x.a x.b) := by
  rw [answerTo, eval_of_decode h]
  rfl

theorem answerTo_of_reserved {x : Inputs} (h : decode x.op = .error (.reservedOp x.op)) :
    answerTo x = .error (.reservedOp x.op) := by
  rw [answerTo, eval_of_reserved h]
  rfl

/-- A completed evaluation leaves nothing of the state it found. -/
theorem present_drive_eq_unitAfter {x : Inputs} {o : Outputs} (h : answerTo x = .ok o) (s : State) :
    (s.present x).drive o = unitAfter x := by
  rw [unitAfter, h]
  rfl

/-- A refused evaluation leaves nothing of the state it found. -/
theorem present_eq_unitAfter {x : Inputs} {e : Refusal} (h : answerTo x = .error e) (s : State) :
    s.present x = unitAfter x := by
  rw [unitAfter, h]
  rfl

/-- Serving is a function of the request alone, apart from whether there is such a unit: no unit's former state shows
in the answer or in what is left behind (R36, R91). -/
theorem serve_eq (r : Request) (us : List State) :
    serve r us =
      (if r.unit < us.length then some (answerTo r.inputs) else none, us.set r.unit (unitAfter r.inputs)) := by
  by_cases hr : r.unit < us.length
  · rw [serve, List.getElem?_eq_getElem hr, if_pos hr]
    rcases evaluate_cases r.inputs us[r.unit] with ⟨i, hdecode, heval⟩ | ⟨hdecode, heval⟩
    · have hanswer := answerTo_of_decode hdecode
      rw [hanswer, ← present_drive_eq_unitAfter hanswer us[r.unit]]
      simp only [heval, drive_sample, Option.map_some]
    · have hanswer := answerTo_of_reserved hdecode
      rw [hanswer, ← present_eq_unitAfter hanswer us[r.unit]]
      simp only [heval]
  · have hr' : us.length ≤ r.unit := not_lt.mp hr
    rw [serve, List.getElem?_eq_none hr', if_neg hr, List.set_eq_of_length_le hr']

/-- Settles O41, by induction on the requests: each is answered by `serve_eq`, and leaves the number of units, which
is all that the later answers need of them. -/
theorem anyInterleavingAnswersEval : Obligations.AnyInterleavingAnswersEval := by
  intro rs
  induction rs with
  | nil => exact fun _ => rfl
  | cons r rs ih =>
    intro us
    have hrest := ih (serve r us).2
    rw [serve_length] at hrest
    have hfirst : (serve r us).1 = if r.unit < us.length then some (answerTo r.inputs) else none := by
      rw [serve_eq]
    exact congrArg₂ List.cons hfirst hrest

/-- Settles O42: a request overwrites the entry of its own unit and no other. -/
theorem unitsShareNothing : Obligations.UnitsShareNothing := by
  refine fun r q us => ⟨fun k hk => ?_, fun hne => ?_⟩
  · rw [serve_eq, List.getElem?_set_ne hk.symm]
  · simp only [serve_eq]
    exact List.set_comm _ _ hne

end Sys2Proof.Machine
end

section
/-! The opcode map (R42, R47, R49): the decoder undoes the encoder, and its only refusals are the two reserved values of
`op`, which are also the only refusals of a step (R48). -/

namespace Sys2Proof.Machine

theorem familyOf_bits (f : Family) : familyOf f.bits = some f := by
  cases f <;> rfl

theorem signednessOf_bit (u : Signedness) : signednessOf u.bit = u := by
  cases u <;> rfl

/-- The encoding of every operation has the fields its row of the opcode map gives it (R42). -/
theorem encodingFields (i : Instr) : Laws.EncodingFields.Statement i := by
  cases i with
  | signedAdd32 => exact Laws.EncodingFields.signedAdd32
  | unsignedAdd32 => exact Laws.EncodingFields.unsignedAdd32
  | signedMul32 => exact Laws.EncodingFields.signedMul32
  | unsignedMul32 => exact Laws.EncodingFields.unsignedMul32
  | narrowS64To32 => exact Laws.EncodingFields.narrowS64To32
  | narrowU64To32 => exact Laws.EncodingFields.narrowU64To32

theorem decode_encode (i : Instr) : decode (encode i) = .ok i := by
  obtain ⟨hfam, hu, hfields⟩ := encodingFields i
  rw [decode, hfam, familyOf_bits, hu, signednessOf_bit]
  exact congrArg Except.ok hfields

theorem opWellFormed_of_decode {op : OpSel} {i : Instr} (h : decode op = .ok i) : opWellFormed op = true := by
  rcases decode_cases op with ⟨hwf, -⟩ | ⟨-, herror⟩
  · exact hwf
  · nomatch herror.symm.trans h

/-- Settles O1: each row by evaluating the decoder. -/
theorem opcodeMapDecodes : Obligations.OpcodeMapDecodes :=
  ⟨rfl, rfl, rfl, rfl, rfl, rfl, rfl, rfl⟩

/-- Settles O2: the decoder reads back the fields that the encoder writes, and these are the whole of `op`. -/
theorem decodeEncodeRoundTrip : Obligations.DecodeEncodeRoundTrip :=
  ⟨fun i => ⟨decode_encode i, opWellFormed_of_decode (decode_encode i)⟩, fun _ _ => encode_of_decode⟩

/-! ### The reserved values -/

theorem opWellFormed_eq_false_iff :
    ∀ op : OpSel, opWellFormed op = false ↔ op = 0b110#3 ∨ op = 0b111#3 := by decide

theorem decode_eq_reservedOp_iff (op : OpSel) :
    decode op = .error (.reservedOp op) ↔ op = 0b110#3 ∨ op = 0b111#3 := by
  rw [← opWellFormed_eq_false_iff]
  rcases decode_cases op with ⟨hwf, i, hdecode⟩ | ⟨hwf, hdecode⟩
  · simp [hwf, hdecode]
  · simp [hwf, hdecode]

/-- The refusals of a step are the decoder's. -/
theorem step_eq_refused_iff (s : State) (r : Refusal) :
    step s = .refused r ↔ decode s.op = .error (.reservedOp s.op) ∧ r = .reservedOp s.op := by
  rcases step_cases s with ⟨i, hdecode, hstep⟩ | ⟨hdecode, hstep⟩
  · simp [hdecode, hstep]
  · simp [hdecode, hstep, eq_comm]

theorem step_ne_fault (s : State) (f : Fault) : step s ≠ .fault f := by
  rcases step_cases s with ⟨i, -, hstep⟩ | ⟨-, hstep⟩
  · simp [hstep]
  · simp [hstep]

/-- Settles O4: a step refuses where the decoder does, which is on the two reserved values. -/
theorem stepRefusesExactlyReservedOps : Obligations.StepRefusesExactlyReservedOps := by
  refine fun s => ⟨fun r => ?_, step_ne_fault s⟩
  rw [step_eq_refused_iff, decode_eq_reservedOp_iff]

end Sys2Proof.Machine
end

section
/-! The operand bits that a family uses (R43 to R45). -/

namespace Sys2Proof.Machine

/-- The family field of an `op` that decodes is that of the operation (R42). -/
theorem famField_of_decode {op : OpSel} {i : Instr} (h : decode op = .ok i) : famField op = i.family.bits := by
  rw [← encode_of_decode h]
  exact (encodingFields i).1

/-- The add and multiply families see no more of `a` than the operand `A` (R43). -/
theorem operate_eq_of_operandA_eq {i : Instr} (hfam : i.family ≠ .narrow) {a a' : DWord}
    (ha : operandA a = operandA a') (b : Word) : operate i a b = operate i a' b := by
  cases i
  case narrowS64To32 | narrowU64To32 => exact absurd rfl hfam
  all_goals rw [operate, operate, ha]

/-- The narrow family does not see `b` (R44). -/
theorem operate_narrow_eq {i : Instr} (hfam : i.family = .narrow) (a : DWord) (b b' : Word) :
    operate i a b = operate i a b' := by
  cases i
  case narrowS64To32 | narrowU64To32 => rfl
  all_goals nomatch hfam

/-- `eval` sees no more of the operands than the operation on `op` does; a refusal sees nothing of them. -/
theorem eval_eq_of_operate_eq {op : OpSel} {a a' : DWord} {b b' : Word}
    (h : ∀ i, decode op = .ok i → operate i a b = operate i a' b') : eval op a b = eval op a' b' := by
  rcases decode_cases op with ⟨-, i, hdecode⟩ | ⟨-, hdecode⟩
  · rw [eval_of_decode hdecode, eval_of_decode hdecode, h i hdecode]
  · rw [eval_of_reserved hdecode, eval_of_reserved hdecode]

theorem family_ne_narrow_of_bits {f : Family} (h : f.bits = 0b00#2 ∨ f.bits = 0b01#2) : f ≠ .narrow := by
  rintro rfl
  exact absurd h (by decide)

theorem family_eq_narrow_of_bits {f : Family} (h : f.bits = 0b10#2) : f = .narrow :=
  Option.some.inj ((familyOf_bits f).symm.trans (congrArg familyOf h))

/-- Settles O17: the family field tells the family of the operation, and the family which operand bits it sees. -/
theorem unusedBitsHaveNoEffect : Obligations.UnusedBitsHaveNoEffect := by
  refine fun op a a' b b' => ⟨fun hfam ha => ?_, fun hfam => ?_⟩
  · refine eval_eq_of_operate_eq fun i hdecode => ?_
    rw [famField_of_decode hdecode] at hfam
    exact operate_eq_of_operandA_eq (family_ne_narrow_of_bits hfam) ha b
  · refine eval_eq_of_operate_eq fun i hdecode => ?_
    rw [famField_of_decode hdecode] at hfam
    exact operate_narrow_eq (family_eq_narrow_of_bits hfam) a b b'

end Sys2Proof.Machine
end

section
/-! Assembling a line (R50): a literal in range reads back from a vector of its operand's width, and a line puts its
literals on the ports at that width (R43, R44). -/

namespace Sys2Proof.Machine

/-! ### Literals -/

/-- The width of a family's operands (R43, R44). -/
def operandWidth : Family → Nat
  | .add => 32
  | .multiply => 32
  | .narrow => 64

theorem operandWidth_of_ne_narrow {f : Family} (h : f ≠ .narrow) : operandWidth f = 32 := by
  cases f
  case narrow => exact absurd rfl h
  all_goals rfl

theorem operandWidth_pos (f : Family) : 0 < operandWidth f := by
  cases f <;> decide

/-- The operand range of a signed operation is that of a signed vector of its operand width (R50). -/
theorem operandRange_signed {i : Instr} (h : i.signedness = .signed) :
    operandRange i = (-2 ^ (operandWidth i.family - 1), 2 ^ (operandWidth i.family - 1) - 1) := by
  cases i
  case signedAdd32 | signedMul32 | narrowS64To32 => rfl
  all_goals nomatch h

/-- The operand range of an unsigned operation is that of an unsigned vector of its operand width (R50). -/
theorem operandRange_unsigned {i : Instr} (h : i.signedness = .unsigned) :
    operandRange i = (0, 2 ^ operandWidth i.family - 1) := by
  cases i
  case unsignedAdd32 | unsignedMul32 | narrowU64To32 => rfl
  all_goals nomatch h

theorem inRange_iff (i : Instr) (x : Literal) :
    x.inRange i = true ↔ (operandRange i).1 ≤ x.value ∧ x.value ≤ (operandRange i).2 := by
  simp [Literal.inRange]

/-- A literal in the range of a signed operation reads back, as signed, from its operand. -/
theorem toInt_bits_of_inRange {i : Instr} {w : Nat} (hw : operandWidth i.family = w) (h : i.signedness = .signed)
    {x : Literal} (hx : x.inRange i = true) : (bits w x.value).toInt = x.value := by
  subst hw
  rw [inRange_iff, operandRange_signed h] at hx
  rw [bits_eq_ofInt]
  exact BitVec.toInt_ofInt_eq_self (operandWidth_pos _) hx.1 (Int.lt_of_le_sub_one hx.2)

/-- A literal in the range of an unsigned operation reads back, as unsigned, from its operand. -/
theorem toNat_bits_of_inRange {i : Instr} {w : Nat} (hw : operandWidth i.family = w) (h : i.signedness = .unsigned)
    {x : Literal} (hx : x.inRange i = true) : ((bits w x.value).toNat : Int) = x.value := by
  subst hw
  rw [inRange_iff, operandRange_unsigned h] at hx
  rw [← uint_eq_toNat, uint_bits]
  exact Int.emod_eq_of_lt hx.1 (Int.lt_of_le_sub_one hx.2)

/-! ### Lines -/

/-- Everything `assemble` can do with a line of two operands. -/
theorem assemble_two_eq_some_iff {i : Instr} {x y : Literal} {p : Inputs} :
    assemble (.two i x y) = some p ↔
      (i.family ≠ .narrow ∧ x.inRange i = true ∧ y.inRange i = true) ∧
        p = ⟨encode i, zext 64 (bits 32 x.value), bits 32 y.value⟩ := by
  rw [eq_comm (a := p)]
  simp [assemble, Line.wellFormed, and_assoc]

/-- Everything `assemble` can do with a line of one operand. -/
theorem assemble_one_eq_some_iff {i : Instr} {x : Literal} {p : Inputs} :
    assemble (.one i x) = some p ↔
      (i.family = .narrow ∧ x.inRange i = true) ∧ p = ⟨encode i, bits 64 x.value, 0#32⟩ := by
  rw [eq_comm (a := p)]
  simp [assemble, Line.wellFormed]

theorem isSome_assemble (l : Line) : (assemble l).isSome = l.wellFormed := by
  cases hwf : l.wellFormed with
  | false => simp [assemble, hwf]
  | true => cases l <;> simp [assemble, hwf]

theorem extractLsb'_low_zext (v : Word) : (zext 64 v).extractLsb' 0 32 = v := by
  rw [zext, BitVec.extractLsb'_setWidth_of_le (by decide), BitVec.extractLsb'_eq_self]

theorem extractLsb'_high_zext (v : Word) : (zext 64 v).extractLsb' 32 32 = 0#32 := by
  ext k hk
  simp [zext]

/-- Settles O43: both literals of a line are in range, and the low half of `a` and `b`, or the whole of `a`, have the
operand width of the operation's family. -/
theorem assembledLineReadsBack : Obligations.AssembledLineReadsBack := by
  refine ⟨isSome_assemble, fun i x y p hp => ?_, fun i x p hp => ?_⟩
  · obtain ⟨⟨hfam, hx, hy⟩, rfl⟩ := assemble_two_eq_some_iff.mp hp
    have hwidth : operandWidth i.family = 32 := operandWidth_of_ne_narrow hfam
    rw [extractLsb'_low_zext]
    exact ⟨decode_encode i, extractLsb'_high_zext _,
      fun h => ⟨toInt_bits_of_inRange hwidth h hx, toInt_bits_of_inRange hwidth h hy⟩,
      fun h => ⟨toNat_bits_of_inRange hwidth h hx, toNat_bits_of_inRange hwidth h hy⟩⟩
  · obtain ⟨⟨hfam, hx⟩, rfl⟩ := assemble_one_eq_some_iff.mp hp
    have hwidth : operandWidth i.family = 64 := congrArg operandWidth hfam
    exact ⟨decode_encode i, rfl,
      fun h => toInt_bits_of_inRange hwidth h hx, fun h => toNat_bits_of_inRange hwidth h hx⟩

end Sys2Proof.Machine
end

section
/-! What an operation gives on a state, by the range of its exact result (R21, R24, R81), with the bounds as numerals. -/

namespace Sys2Proof.Machine

theorem gives_signed_above {i : Instr} (h : i.signedness = .signed) {s : State}
    (hn : exactResult i s.a s.b > 2147483647) : s.Gives i 0x7FFFFFFF#32 false := by
  rw [gives_iff, operate_signed h]
  exact clampSigned_above hn _

theorem gives_signed_below {i : Instr} (h : i.signedness = .signed) {s : State}
    (hn : exactResult i s.a s.b < -2147483648) : s.Gives i 0x80000000#32 false := by
  rw [gives_iff, operate_signed h]
  exact clampSigned_below hn _

theorem gives_signed_fits {i : Instr} (h : i.signedness = .signed) {s : State}
    (hl : -2147483648 ≤ exactResult i s.a s.b) (hu : exactResult i s.a s.b ≤ 2147483647) :
    s.Gives i (BitVec.ofInt 32 (exactResult i s.a s.b)) true := by
  rw [gives_iff, operate_signed h, ← bits_eq_ofInt]
  exact clampSigned_fits hl hu _

theorem gives_unsigned_above {i : Instr} (h : i.signedness = .unsigned) {s : State}
    (hn : exactResult i s.a s.b > 4294967295) : s.Gives i 0xFFFFFFFF#32 false := by
  rw [gives_iff, (operate_unsigned h s.a s.b).2]
  exact clampUnsigned_above hn _

theorem gives_unsigned_fits {i : Instr} (h : i.signedness = .unsigned) {s : State}
    (hn : exactResult i s.a s.b ≤ 4294967295) :
    s.Gives i (BitVec.ofInt 32 (exactResult i s.a s.b)) true := by
  rw [gives_iff, (operate_unsigned h s.a s.b).2, ← bits_eq_ofInt]
  exact clampUnsigned_fits hn _

/-- An operation clears `ok` exactly when its exact result does not fit (R21). -/
theorem exists_gives_false_iff (i : Instr) (s : State) :
    (∃ r, s.Gives i r false) ↔ fitsOutput i (exactResult i s.a s.b) = false := by
  rw [← operate_ok]
  refine ⟨fun ⟨r, hr⟩ => ?_, fun hok => ⟨_, hok ▸ gives_operate s i⟩⟩
  rw [(gives_iff s i r false).mp hr]

/-- An unsigned operation has one clamp value, which is not 0. -/
theorem result_ne_zero_of_gives_false {i : Instr} (h : i.signedness = .unsigned) {s : State} {r : Word}
    (hr : s.Gives i r false) : r ≠ 0#32 := by
  have hfits := (exists_gives_false_iff i s).mp ⟨r, hr⟩
  rw [gives_iff, operate_of_not_fits hfits, clampValue_unsigned h] at hr
  injection hr with hr
  rw [← hr]
  decide

end Sys2Proof.Machine
end

section
/-! The exact sums of the add family, their 32 bits, and the one adder (R53). -/

namespace Sys2Proof.Machine

theorem toInt_word_range (v : Word) : -2147483648 ≤ v.toInt ∧ v.toInt ≤ 2147483647 := by
  rw [← sint_eq_toInt]
  exact sint_word_range v

/-- The low 32 bits of the exact signed sum are the machine sum. -/
theorem ofInt_toInt_add_toInt (A B : Word) : BitVec.ofInt 32 (A.toInt + B.toInt) = A + B := by
  rw [BitVec.ofInt_add, BitVec.ofInt_toInt, BitVec.ofInt_toInt]

/-- The low 32 bits of the exact unsigned sum are the machine sum. -/
theorem ofNat_toNat_add_toNat (A B : Word) : BitVec.ofNat 32 (A.toNat + B.toNat) = A + B := by
  rw [BitVec.ofNat_add, BitVec.ofNat_toNat, BitVec.ofNat_toNat, BitVec.setWidth_eq, BitVec.setWidth_eq]

theorem bits_toInt_add_toInt (A B : Word) : bits 32 (A.toInt + B.toInt) = A + B := by
  rw [bits_eq_ofInt, ofInt_toInt_add_toInt]

theorem bits_toNat_add_toNat (A B : Word) : bits 32 ((A.toNat : Int) + B.toNat) = A + B := by
  rw [bits_eq_ofInt, ← Nat.cast_add, BitVec.ofInt_natCast, ofNat_toNat_add_toNat]

/-- Read as signed, the machine sum is the exact sum wrapped once into the range of a word. -/
theorem toInt_add_cases (A B : Word) :
    (A.toInt + B.toInt > 2147483647 ∧ (A + B).toInt = A.toInt + B.toInt - 2 ^ 32) ∨
    (A.toInt + B.toInt < -2147483648 ∧ (A + B).toInt = A.toInt + B.toInt + 2 ^ 32) ∨
    (-2147483648 ≤ A.toInt + B.toInt ∧ A.toInt + B.toInt ≤ 2147483647 ∧ (A + B).toInt = A.toInt + B.toInt) := by
  have hA := toInt_word_range A
  have hB := toInt_word_range B
  rw [BitVec.toInt_add, Int.bmod_def]
  omega

/-! ### The adder -/

@[simp] theorem sum_adder (A B : Word) : (adder A B).sum = A + B := by
  simp only [adder, zext, trunc_eq_setWidth]
  rw [BitVec.setWidth_add _ _ (by decide)]
  simp

/-- The carry out of bit 31 is the exact unsigned sum leaving the range of a word (R60). -/
theorem carryOut_adder_iff (A B : Word) :
    (adder A B).carryOut = true ↔ A.toNat + B.toNat > 4294967295 := by
  have hA := A.isLt
  have hB := B.isLt
  simp only [adder, zext, BitVec.msb_eq_decide, BitVec.toNat_add, BitVec.toNat_setWidth, decide_eq_true_eq]
  omega

end Sys2Proof.Machine
end

section
/-! `signedAdd32` (R54): everything it can answer, beside what the machine sum is then. -/

namespace Sys2Proof.Machine

theorem signedAdd32_eq (A B : Word) : signedAdd32 A B = clampSigned (A.toInt + B.toInt) (A + B) := by
  simp only [signedAdd32, sint_eq_toInt, bits_toInt_add_toInt]

/-- Everything `signedAdd32` can answer, with the range of the exact sum and the wrapped sum in each case. -/
theorem signedAdd32_cases (A B : Word) :
    (A.toInt + B.toInt > 2147483647 ∧ (A + B).toInt = A.toInt + B.toInt - 2 ^ 32 ∧
      signedAdd32 A B = ⟨0x7FFFFFFF#32, false⟩) ∨
    (A.toInt + B.toInt < -2147483648 ∧ (A + B).toInt = A.toInt + B.toInt + 2 ^ 32 ∧
      signedAdd32 A B = ⟨0x80000000#32, false⟩) ∨
    (-2147483648 ≤ A.toInt + B.toInt ∧ A.toInt + B.toInt ≤ 2147483647 ∧ (A + B).toInt = A.toInt + B.toInt ∧
      signedAdd32 A B = ⟨A + B, true⟩) := by
  rw [signedAdd32_eq]
  rcases toInt_add_cases A B with ⟨h, hw⟩ | ⟨h, hw⟩ | ⟨hl, hu, hw⟩
  · exact .inl ⟨h, hw, clampSigned_above h _⟩
  · exact .inr (.inl ⟨h, hw, clampSigned_below h _⟩)
  · exact .inr (.inr ⟨hl, hu, hw, clampSigned_fits hl hu _⟩)

theorem signedAdd32_eq_clampMax_iff (A B : Word) :
    signedAdd32 A B = ⟨0x7FFFFFFF#32, false⟩ ↔ A.toInt + B.toInt > 2147483647 := by
  rcases signedAdd32_cases A B with ⟨h, -, heq⟩ | ⟨h, -, heq⟩ | ⟨-, h, -, heq⟩
  · exact iff_of_true heq h
  · exact iff_of_false (by simp [heq]) (by omega)
  · exact iff_of_false (by simp [heq]) (by omega)

theorem signedAdd32_eq_clampMin_iff (A B : Word) :
    signedAdd32 A B = ⟨0x80000000#32, false⟩ ↔ A.toInt + B.toInt < -2147483648 := by
  rcases signedAdd32_cases A B with ⟨h, -, heq⟩ | ⟨h, -, heq⟩ | ⟨h, -, -, heq⟩
  · exact iff_of_false (by simp [heq]) (by omega)
  · exact iff_of_true heq h
  · exact iff_of_false (by simp [heq]) (by omega)

/-- Operands of opposite sign never overflow (R54). -/
theorem toInt_add_toInt_fits_of_msb_ne {A B : Word} (h : A.msb ≠ B.msb) :
    -2147483648 ≤ A.toInt + B.toInt ∧ A.toInt + B.toInt ≤ 2147483647 := by
  have hA := toInt_word_range A
  have hB := toInt_word_range B
  rw [BitVec.msb_eq_toInt, BitVec.msb_eq_toInt, ne_eq, decide_eq_decide] at h
  omega

theorem exactResult_signedAdd32 (a : DWord) (b : Word) :
    exactResult .signedAdd32 a b = (a.extractLsb' 0 32).toInt + b.toInt := by
  rw [exactResult, sint_eq_toInt, sint_eq_toInt, operandA_eq, operandB_eq]

/-- Settles O8: the three cases of the pseudocode, and each corner case from the case that its exact sum selects. -/
theorem signedAdd32Result : Obligations.SignedAdd32Result := by
  refine ⟨rfl, fun s => ?_⟩
  intro A n
  have hn : exactResult .signedAdd32 s.a s.b = n := exactResult_signedAdd32 s.a s.b
  have habove : n > 2147483647 → s.Gives .signedAdd32 0x7FFFFFFF#32 false := fun h =>
    gives_signed_above rfl (hn ▸ h)
  have hbelow : n < -2147483648 → s.Gives .signedAdd32 0x80000000#32 false := fun h =>
    gives_signed_below rfl (hn ▸ h)
  have hfits : -2147483648 ≤ n → n ≤ 2147483647 → s.Gives .signedAdd32 (BitVec.ofInt 32 n) true := fun hl hu =>
    hn ▸ gives_signed_fits rfl (hn ▸ hl) (hn ▸ hu)
  have hA := toInt_word_range A
  have hB := toInt_word_range s.b
  have hval {x y : Word} (hx : A = x) (hy : s.b = y) : n = x.toInt + y.toInt := by rw [← hx, ← hy]
  refine ⟨by omega, habove, hbelow, hfits, fun hb => ?_, fun heq => ?_, fun hmsb => ?_,
    fun hx hy => ?_, fun hx hy => ?_, fun hx hy => ?_, fun hx hy => ?_⟩
  · have hzero : n = A.toInt := by rw [hval rfl hb, BitVec.toInt_zero, add_zero]
    have := hfits (hzero ▸ hA.1) (hzero ▸ hA.2)
    rwa [hzero, BitVec.ofInt_toInt] at this
  · have hdouble : n = 2 * A.toInt := by rw [hval rfl heq.symm, two_mul]
    refine ⟨hdouble, ?_⟩
    rw [exists_gives_false_iff, hn, hdouble, ← Bool.not_eq_true, fitsOutput_signed rfl, fitsS32_iff, int32Min, int32Max]
    omega
  · obtain ⟨hl, hu⟩ := toInt_add_toInt_fits_of_msb_ne hmsb
    exact hfits hl hu
  · exact ⟨hbelow (by rw [hval hx hy]; decide), by rw [hval hx hy]; decide⟩
  · exact habove (by rw [hval hx hy]; decide)
  · have hminus : n = -1 := by rw [hval hx hy]; decide
    have := hfits (by omega) (by omega)
    rwa [hminus] at this
  · exact habove (by rw [hval hx hy]; decide)

/-! ### The overflow tests on the wrapped sum -/

theorem wrappedSum_eq (A B : Word) : wrappedSum A B = (A + B).toInt := by
  simp only [wrappedSum, sint_eq_toInt, bits_toInt_add_toInt]

theorem sourcePositiveOverflow_iff (A B : Word) :
    sourcePositiveOverflow A B = true ↔ A.toInt + B.toInt > 2147483647 := by
  have hA := toInt_word_range A
  have hB := toInt_word_range B
  simp only [sourcePositiveOverflow, wrappedSum_eq, sint_eq_toInt, Bool.and_eq_true, decide_eq_true_eq]
  rcases toInt_add_cases A B with ⟨h, hw⟩ | ⟨h, hw⟩ | ⟨hl, hu, hw⟩ <;> omega

theorem sourceNegativeOverflow_iff (A B : Word) :
    sourceNegativeOverflow A B = true ↔ A.toInt + B.toInt < -2147483648 := by
  have hA := toInt_word_range A
  have hB := toInt_word_range B
  simp only [sourceNegativeOverflow, wrappedSum_eq, sint_eq_toInt, Bool.and_eq_true, decide_eq_true_eq]
  rcases toInt_add_cases A B with ⟨h, hw⟩ | ⟨h, hw⟩ | ⟨hl, hu, hw⟩ <;> omega

/-- Settles O21: each of the source's conditions is the exact sum leaving the range on its side, which is what the
clamped output shows; on the exact sum each would contradict itself. -/
theorem sourceSignedConditionsSelectOverflow : Obligations.SourceSignedConditionsSelectOverflow := by
  intro A B
  rw [signedAdd32_eq_clampMax_iff, signedAdd32_eq_clampMin_iff]
  exact ⟨sourcePositiveOverflow_iff A B, sourceNegativeOverflow_iff A B, sourcePositiveOverflow_iff A B,
    sourceNegativeOverflow_iff A B, by omega, by omega⟩

/-- Settles O23: an operand is at most the bound of its side away from 0, so the other one must take the sum past it. -/
theorem overflowDirectionsExclude : Obligations.OverflowDirectionsExclude := by
  intro A B
  have hA := toInt_word_range A
  have hB := toInt_word_range B
  have hpos : A.toInt + B.toInt > 2147483647 → A.toInt > 0 ∧ B.toInt > 0 := by omega
  have hneg : A.toInt + B.toInt < -2147483648 → A.toInt < 0 ∧ B.toInt < 0 := by omega
  rw [signedAdd32_eq_clampMax_iff, signedAdd32_eq_clampMin_iff]
  exact ⟨hpos, hneg, hpos, hneg⟩

/-! ### The sign-bit form -/

/-- Everything the sign bits can show beside the answer of `signedAdd32`: on overflow both operands have the sign that
the wrapped sum lacks. -/
theorem signedAdd32_msb_cases (A B : Word) :
    (A.msb = false ∧ B.msb = false ∧ (A + B).msb = true ∧ signedAdd32 A B = ⟨0x7FFFFFFF#32, false⟩) ∨
    (A.msb = true ∧ B.msb = true ∧ (A + B).msb = false ∧ signedAdd32 A B = ⟨0x80000000#32, false⟩) ∨
    (¬(A.msb = B.msb ∧ (A + B).msb ≠ A.msb) ∧ signedAdd32 A B = ⟨A + B, true⟩) := by
  have hA := toInt_word_range A
  have hB := toInt_word_range B
  simp only [BitVec.msb_eq_toInt, decide_eq_true_eq, decide_eq_false_iff_not, ne_eq, decide_eq_decide]
  rcases signedAdd32_cases A B with ⟨h, hw, heq⟩ | ⟨h, hw, heq⟩ | ⟨hl, hu, hw, heq⟩
  · exact .inl ⟨by omega, by omega, by omega, heq⟩
  · exact .inr (.inl ⟨by omega, by omega, by omega, heq⟩)
  · exact .inr (.inr ⟨by omega, heq⟩)

theorem signBitOverflow_iff (A B : Word) :
    signBitOverflow A B = true ↔ A.msb = B.msb ∧ (A + B).msb ≠ A.msb := by
  simp [signBitOverflow]

theorem signedAddGates_eq_signedAdd32 (A B : Word) : signedAddGates A B = signedAdd32 A B := by
  rw [signedAddGates, sum_adder]
  simp only [signBitOverflow_iff]
  rcases signedAdd32_msb_cases A B with ⟨hA, hB, hW, heq⟩ | ⟨hA, hB, hW, heq⟩ | ⟨hno, heq⟩
  · simp [hA, hB, hW, heq, clampMaxSigned]
  · simp [hA, hB, hW, heq, clampMinSigned]
  · rw [if_neg hno, heq]

/-- Settles O22: by what the sign bits show in each of the three cases. -/
theorem signBitTestEqualsSignedAdd : Obligations.SignBitTestEqualsSignedAdd := by
  intro A B
  rw [signedAddGates_eq_signedAdd32]
  rcases signedAdd32_msb_cases A B with ⟨hA, hB, hW, heq⟩ | ⟨hA, hB, hW, heq⟩ | ⟨hno, heq⟩
  · simp [hA, hB, hW, heq]
  · simp [hA, hB, hW, heq]
  · exact ⟨iff_of_false (by simp [heq]) hno, by simp [heq], rfl⟩

end Sys2Proof.Machine
end

section
/-! `unsignedAdd32` (R59): everything it can answer, beside what the machine sum is then. -/

namespace Sys2Proof.Machine

theorem unsignedAdd32_eq (A B : Word) :
    unsignedAdd32 A B = clampUnsigned ((A.toNat + B.toNat : Nat) : Int) (A + B) := by
  simp only [unsignedAdd32, uint_eq_toNat, bits_toNat_add_toNat, Nat.cast_add]

/-- Everything `unsignedAdd32` can answer, with the range of the exact sum in each case. -/
theorem unsignedAdd32_cases (A B : Word) :
    (A.toNat + B.toNat > 4294967295 ∧ unsignedAdd32 A B = ⟨0xFFFFFFFF#32, false⟩) ∨
    (A.toNat + B.toNat ≤ 4294967295 ∧ unsignedAdd32 A B = ⟨A + B, true⟩) := by
  rw [unsignedAdd32_eq]
  rcases clampUnsigned_cases ((A.toNat + B.toNat : Nat) : Int) (A + B) with ⟨h, heq⟩ | ⟨h, heq⟩
  · exact .inl ⟨Int.ofNat_lt.mp h, heq⟩
  · exact .inr ⟨Int.ofNat_le.mp h, heq⟩

theorem unsignedAdd32_ok_eq_false_iff (A B : Word) :
    (unsignedAdd32 A B).ok = false ↔ A.toNat + B.toNat > 4294967295 := by
  rcases unsignedAdd32_cases A B with ⟨h, heq⟩ | ⟨h, heq⟩
  · simp [heq, h]
  · simp [heq, h]

theorem exactResult_unsignedAdd32 (a : DWord) (b : Word) :
    exactResult .unsignedAdd32 a b = ((a.extractLsb' 0 32).toNat + b.toNat : Nat) := by
  rw [exactResult, uint_eq_toNat, uint_eq_toNat, operandA_eq, operandB_eq, Nat.cast_add]

/-- Settles O9: the two cases of the pseudocode, and each corner case from the case that its exact sum selects. -/
theorem unsignedAdd32Result : Obligations.UnsignedAdd32Result := by
  refine ⟨rfl, fun s => ?_⟩
  intro A n
  have hn : exactResult .unsignedAdd32 s.a s.b = n := exactResult_unsignedAdd32 s.a s.b
  have habove : n > 4294967295 → s.Gives .unsignedAdd32 0xFFFFFFFF#32 false := fun h =>
    gives_unsigned_above rfl (hn ▸ Int.ofNat_lt.mpr h)
  have hfits : n ≤ 4294967295 → s.Gives .unsignedAdd32 (BitVec.ofNat 32 n) true := fun h => by
    rw [← BitVec.ofInt_natCast, ← hn]
    exact gives_unsigned_fits rfl (hn ▸ Int.ofNat_le.mpr h)
  have hA := A.isLt
  have hB := s.b.isLt
  have hval {x y : Word} (hx : A = x) (hy : s.b = y) : n = x.toNat + y.toNat := by rw [← hx, ← hy]
  have hzero (hb : s.b = 0#32) : s.Gives .unsignedAdd32 A true := by
    have hsum : n = A.toNat := hval rfl hb
    have := hfits (by omega)
    rwa [hsum, BitVec.ofNat_toNat, BitVec.setWidth_eq] at this
  refine ⟨by omega, habove, hfits, hzero, fun hx hb => hx ▸ hzero hb, fun hx hy => ?_, fun hx hy => ?_,
    fun heq => ?_, fun r => result_ne_zero_of_gives_false rfl, fun hx hy => ?_⟩
  · exact ⟨habove (by rw [hval hx hy]; decide), hval hx hy⟩
  · exact habove (by rw [hval hx hy]; decide)
  · have hdouble : n = 2 * A.toNat := by rw [hval rfl heq.symm, two_mul]
    refine ⟨hdouble, ?_⟩
    rw [exists_gives_false_iff, hn, hdouble, ← Bool.not_eq_true, fitsOutput_unsigned rfl, fitsU32_iff, uint32Max]
    omega
  · exact habove (by rw [hval hx hy]; decide)

/-! ### The carry -/

theorem unsignedAddGates_eq_unsignedAdd32 (A B : Word) : unsignedAddGates A B = unsignedAdd32 A B := by
  rw [unsignedAddGates, sum_adder]
  simp only [carryOut_adder_iff]
  rcases unsignedAdd32_cases A B with ⟨h, heq⟩ | ⟨h, heq⟩
  · rw [if_pos h, heq, clampMaxUnsigned]
  · rw [if_neg h.not_gt, heq]

/-- The sum modulo 2^32 is below either operand exactly when the exact sum leaves the range of a word (R60). -/
theorem mod_lt_left_iff (A B : Word) :
    (A.toNat + B.toNat) % 2 ^ 32 < A.toNat ↔ A.toNat + B.toNat > 4294967295 := by
  have hA := A.isLt
  have hB := B.isLt
  omega

/-- The same test on the other operand. -/
theorem mod_lt_right_iff (A B : Word) :
    (A.toNat + B.toNat) % 2 ^ 32 < B.toNat ↔ A.toNat + B.toNat > 4294967295 := by
  rw [add_comm A.toNat, mod_lt_left_iff]

theorem modularSum_eq (A B : Word) : modularSum A B = ((A.toNat + B.toNat) % 2 ^ 32 : Nat) := by
  simp only [modularSum, uint_eq_toNat, bits_toNat_add_toNat, BitVec.toNat_add]

theorem sourceUnsignedOverflow_iff (A B : Word) :
    sourceUnsignedOverflow A B = true ↔ A.toNat + B.toNat > 4294967295 := by
  simp only [sourceUnsignedOverflow, modularSum_eq, uint_eq_toNat, Nat.cast_lt, Bool.or_eq_true, decide_eq_true_eq,
    mod_lt_left_iff, mod_lt_right_iff, or_self]

/-- Settles O24: every one of the tests is the exact sum leaving the range of a word. -/
theorem sourceUnsignedConditionIsCarry : Obligations.SourceUnsignedConditionIsCarry := by
  refine fun A B => ⟨mod_lt_left_iff A B, mod_lt_right_iff A B, carryOut_adder_iff A B, ?_⟩
  rw [sourceUnsignedOverflow_iff, unsignedAdd32_ok_eq_false_iff]

/-- Settles O20: both sums have the bits of the machine sum, which the adder forms and an exact answer passes on. -/
theorem oneAdderServesBothAdditions : Obligations.OneAdderServesBothAdditions := by
  intro A B
  rw [ofInt_toInt_add_toInt, ofNat_toNat_add_toNat, sum_adder]
  refine ⟨rfl, rfl, carryOut_adder_iff A B, fun hok => ?_, fun hok => ?_⟩
  · rcases signedAdd32_cases A B with ⟨-, -, heq⟩ | ⟨-, -, heq⟩ | ⟨-, -, -, heq⟩
    · simp [heq] at hok
    · simp [heq] at hok
    · rw [heq]
  · rcases unsignedAdd32_cases A B with ⟨-, heq⟩ | ⟨-, heq⟩
    · simp [heq] at hok
    · rw [heq]

end Sys2Proof.Machine
end

section
/-! Commuting operands (R61): an operation of two words whose exact result is symmetric in them. -/

namespace Sys2Proof.Machine

theorem operandA_append (hi A : Word) : operandA (hi ++ A) = A := by
  rw [operandA_eq, BitVec.extractLsb'_append_eq_right]

/-- The add and multiply families are symmetric in `A` and `B`. -/
theorem operate_append_comm {i : Instr} (hfam : i.family ≠ .narrow) (hi hi' A B : Word) :
    operate i (hi ++ A) B = operate i (hi' ++ B) A := by
  cases i
  case signedAdd32 => simp only [operate, signedAdd32, operandA_append, operandB_eq, add_comm]
  case unsignedAdd32 => simp only [operate, unsignedAdd32, operandA_append, operandB_eq, add_comm]
  case signedMul32 => simp only [operate, signedMul32, operandA_append, operandB_eq, mul_comm]
  case unsignedMul32 => simp only [operate, unsignedMul32, operandA_append, operandB_eq, mul_comm]
  all_goals exact absurd rfl hfam

theorem famField_append : ∀ (f : BitVec 2) (u : BitVec 1), famField (f ++ u) = f := by decide

/-- `eval` is symmetric in `A` and `B` for every `op` of the add and multiply families, whatever stands on the unused
bits. -/
theorem eval_append_comm {f : BitVec 2} (hf : f = 0b00#2 ∨ f = 0b01#2) (u : BitVec 1) (hi hi' A B : Word) :
    eval (f ++ u) (hi ++ A) B = eval (f ++ u) (hi' ++ B) A := by
  refine eval_eq_of_operate_eq fun i hdecode => operate_append_comm ?_ hi hi' A B
  have hbits := famField_of_decode hdecode
  rw [famField_append] at hbits
  exact family_ne_narrow_of_bits (hbits ▸ hf)

/-- Settles O25: the add family is one of the two whose operations commute. -/
theorem additionsCommute : Obligations.AdditionsCommute :=
  eval_append_comm (.inl rfl)

end Sys2Proof.Machine
end

section
/-! The gate-level block (R53, R56, R60, R62 to R65, R71 to R73): each path gives the outputs of its operation. -/

namespace Sys2Proof.Machine

/-! ### The narrowing mux -/

/-- The sign-extend path passes a value through exactly when it is in `S32` (R63). -/
theorem sext_trunc_eq_self_iff (N : DWord) :
    sext 64 (trunc 32 N) = N ↔ -2147483648 ≤ N.toInt ∧ N.toInt ≤ 2147483647 := by
  have hlow : (sext 64 (trunc 32 N)).toInt = N.toInt.bmod (2 ^ 32) := by
    rw [sext, BitVec.toInt_signExtend_of_le (by decide), ← bits_sint N, trunc_bits (by decide), bits_sint, bits_eq_ofInt,
      BitVec.toInt_ofInt, sint_eq_toInt]
  rw [← BitVec.toInt_inj, hlow, Int.bmod_def]
  omega

/-- The zero-extend path passes a value through exactly when it is in `U32` (R64). -/
theorem zext_trunc_eq_self_iff (N : DWord) : zext 64 (trunc 32 N) = N ↔ N.toNat ≤ 4294967295 := by
  rw [← BitVec.toNat_inj, zext, trunc_eq_setWidth, BitVec.toNat_setWidth, BitVec.toNat_setWidth]
  omega

theorem signExtendPath_eq_narrowS64To32 (N : DWord) : signExtendPath N = narrowS64To32 N := by
  rw [signExtendPath, narrowS64To32, sint_eq_toInt]
  simp only [sext_trunc_eq_self_iff, BitVec.msb_eq_toInt, decide_eq_true_eq]
  rcases clampSigned_cases N.toInt (trunc 32 N) with ⟨h, heq⟩ | ⟨h, heq⟩ | ⟨hl, hu, heq⟩
  · rw [int32Max] at h
    rw [heq, if_neg (by omega), if_neg (by omega)]
  · rw [int32Min] at h
    rw [heq, if_neg (by omega), if_pos (by omega)]
  · rw [heq, if_pos ⟨hl, hu⟩]

theorem zeroExtendPath_eq_narrowU64To32 (N : DWord) : zeroExtendPath N = narrowU64To32 N := by
  rw [zeroExtendPath, narrowU64To32, uint_eq_toNat]
  simp only [zext_trunc_eq_self_iff]
  rcases clampUnsigned_cases N.toNat (trunc 32 N) with ⟨h, heq⟩ | ⟨h, heq⟩
  · rw [uint32Max] at h
    rw [heq, if_neg (by omega)]
  · rw [uint32Max] at h
    rw [heq, if_pos (by omega)]

/-! ### The multiplier -/

/-- The 64-bit product of the sign-extended operands is the exact product, kept whole (R73). -/
theorem product_signed (A B : Word) : product .signed A B = bits 64 (sint A * sint B) := by
  rw [bits_eq_ofInt, BitVec.ofInt_mul, sint_eq_toInt, sint_eq_toInt]
  rfl

theorem product_unsigned (A B : Word) : product .unsigned A B = bits 64 (uint A * uint B) := by
  rw [bits_eq_ofInt, uint_eq_toNat, uint_eq_toNat, ← Nat.cast_mul, BitVec.ofInt_natCast, BitVec.ofNat_mul,
    BitVec.ofNat_toNat, BitVec.ofNat_toNat]
  rfl

theorem sint_product_signed (A B : Word) : sint (product .signed A B) = sint A * sint B := by
  have hl := BitVec.le_toInt_mul_toInt (x := A) (y := B)
  have hu := BitVec.toInt_mul_toInt_le (x := A) (y := B)
  rw [product_signed, sint_eq_toInt, bits_eq_ofInt, sint_eq_toInt, sint_eq_toInt]
  exact BitVec.toInt_ofInt_eq_self (by decide) (by omega) (by omega)

theorem uint_product_unsigned (A B : Word) : uint (product .unsigned A B) = uint A * uint B := by
  have hu := BitVec.toNat_mul_toNat_lt (x := A) (y := B)
  rw [product_unsigned, uint_bits, uint_eq_toNat, uint_eq_toNat, ← Nat.cast_mul]
  exact Int.emod_eq_of_lt (Int.natCast_nonneg _) (by exact_mod_cast hu)

/-- `signedMul32` narrows the product of the promoted operands (R71, R74). -/
theorem signedMul32_eq_narrowS64To32 (A B : Word) : signedMul32 A B = narrowS64To32 (product .signed A B) := by
  rw [narrowS64To32, sint_product_signed, product_signed]
  rfl

/-- `unsignedMul32` narrows the product of the promoted operands (R71, R76). -/
theorem unsignedMul32_eq_narrowU64To32 (A B : Word) :
    unsignedMul32 A B = narrowU64To32 (product .unsigned A B) := by
  rw [narrowU64To32, uint_product_unsigned, product_unsigned]
  rfl

/-! ### The block -/

/-- The block on an `op` of family `f` gives the outputs of the operation that the two fields select. -/
theorem datapath_of_familyOf {op : OpSel} {f : Family} (hf : familyOf (famField op) = some f) (a : DWord) (b : Word) :
    datapath op a b = .ok ((operate (Instr.ofFields f (signednessOf (uField op))) a b).result,
      (operate (Instr.ofFields f (signednessOf (uField op))) a b).ok) := by
  rw [datapath, hf]
  cases f <;> cases signednessOf (uField op)
  case add.signed => simp only [Instr.ofFields, operate, signedAddGates_eq_signedAdd32]
  case add.unsigned => simp only [Instr.ofFields, operate, unsignedAddGates_eq_unsignedAdd32]
  case multiply.signed =>
    simp only [Instr.ofFields, operate, narrowingPath, signExtendPath_eq_narrowS64To32, signedMul32_eq_narrowS64To32]
  case multiply.unsigned =>
    simp only [Instr.ofFields, operate, narrowingPath, zeroExtendPath_eq_narrowU64To32, unsignedMul32_eq_narrowU64To32]
  case narrow.signed => simp only [Instr.ofFields, operate, narrowingPath, signExtendPath_eq_narrowS64To32]
  case narrow.unsigned => simp only [Instr.ofFields, operate, narrowingPath, zeroExtendPath_eq_narrowU64To32]

/-- Settles O36: the block and the decoder go by the same two fields of `op`, and refuse alike where the family is
reserved. -/
theorem datapathEqualsEval : Obligations.DatapathEqualsEval := by
  intro op a b
  cases hf : familyOf (famField op) with
  | none => rw [datapath, eval, decode, hf]
  | some f =>
    have hdecode : decode op = .ok (Instr.ofFields f (signednessOf (uField op))) := by rw [decode, hf]
    rw [datapath_of_familyOf hf, eval_of_decode hdecode]

end Sys2Proof.Machine
end

section
/-! The narrow family (R66, R68, R70): what it gives on a state, by the range of the operand `W`. -/

namespace Sys2Proof.Machine

theorem exactResult_narrowS64To32 (a : DWord) (b : Word) : exactResult .narrowS64To32 a b = a.toInt :=
  sint_eq_toInt a

theorem exactResult_narrowU64To32 (a : DWord) (b : Word) : exactResult .narrowU64To32 a b = a.toNat := rfl

/-- The low 32 bits of the value of `W`, read as signed, are `W[31:0]` (R66). -/
theorem ofInt_toInt_eq_extractLsb' (W : DWord) : BitVec.ofInt 32 W.toInt = W.extractLsb' 0 32 := by
  rw [← sint_eq_toInt, ← bits_eq_ofInt, ← trunc_bits (by decide : 32 ≤ 64), bits_sint, trunc]

/-- The low 32 bits of the value of `W`, read as unsigned, are `W[31:0]` (R68). -/
theorem ofNat_toNat_eq_extractLsb' (W : DWord) : BitVec.ofNat 32 W.toNat = W.extractLsb' 0 32 := by
  rw [BitVec.ofNat_toNat, ← trunc_eq_setWidth, trunc]

/-! ### `narrowS64To32` -/

theorem gives_narrowS64To32_above {s : State} (h : s.a.toInt > 2147483647) :
    s.Gives .narrowS64To32 0x7FFFFFFF#32 false := by
  rw [← exactResult_narrowS64To32 s.a s.b] at h
  exact gives_signed_above rfl h

theorem gives_narrowS64To32_below {s : State} (h : s.a.toInt < -2147483648) :
    s.Gives .narrowS64To32 0x80000000#32 false := by
  rw [← exactResult_narrowS64To32 s.a s.b] at h
  exact gives_signed_below rfl h

theorem gives_narrowS64To32_fits {s : State} (hl : -2147483648 ≤ s.a.toInt) (hu : s.a.toInt ≤ 2147483647) :
    s.Gives .narrowS64To32 (s.a.extractLsb' 0 32) true := by
  rw [← exactResult_narrowS64To32 s.a s.b] at hl hu
  rw [← ofInt_toInt_eq_extractLsb', ← exactResult_narrowS64To32 s.a s.b]
  exact gives_signed_fits rfl hl hu

/-- Settles O10: the three cases of the pseudocode, and each corner case from the case that its value selects. -/
theorem narrowS64To32Result : Obligations.NarrowS64To32Result := by
  refine ⟨rfl, fun s => ?_⟩
  intro v
  have habove {x : DWord} (hx : s.a = x) (h : x.toInt > 2147483647) : s.Gives .narrowS64To32 0x7FFFFFFF#32 false :=
    gives_narrowS64To32_above (hx ▸ h)
  have hbelow {x : DWord} (hx : s.a = x) (h : x.toInt < -2147483648) : s.Gives .narrowS64To32 0x80000000#32 false :=
    gives_narrowS64To32_below (hx ▸ h)
  have hfits {x : DWord} (hx : s.a = x) (hl : -2147483648 ≤ x.toInt) (hu : x.toInt ≤ 2147483647) :
      s.Gives .narrowS64To32 (x.extractLsb' 0 32) true :=
    hx ▸ gives_narrowS64To32_fits (hx ▸ hl) (hx ▸ hu)
  refine ⟨⟨BitVec.le_toInt s.a, Int.le_sub_one_of_lt BitVec.toInt_lt⟩, habove rfl, hbelow rfl,
    fun hl hu => ⟨hfits rfl hl hu, (ofInt_toInt_eq_extractLsb' s.a).symm⟩, ?_⟩
  exact ⟨fun hx => hfits hx (by decide) (by decide), fun hx => habove hx (by decide),
    fun hx => hfits hx (by decide) (by decide),
    fun hx => ⟨hbelow hx (by decide), (congrArg BitVec.toInt hx).trans (by decide)⟩,
    fun hx => hbelow hx (by decide), fun hx => habove hx (by decide), fun hx => habove hx (by decide),
    fun hx => hfits hx (by decide) (by decide), fun hx => hfits hx (by decide) (by decide)⟩

/-! ### `narrowU64To32` -/

theorem gives_narrowU64To32_above {s : State} (h : s.a.toNat > 4294967295) :
    s.Gives .narrowU64To32 0xFFFFFFFF#32 false :=
  gives_unsigned_above rfl (Int.ofNat_lt.mpr h)

theorem gives_narrowU64To32_fits {s : State} (h : s.a.toNat ≤ 4294967295) :
    s.Gives .narrowU64To32 (s.a.extractLsb' 0 32) true := by
  rw [← ofNat_toNat_eq_extractLsb', ← BitVec.ofInt_natCast, ← exactResult_narrowU64To32 s.a s.b]
  exact gives_unsigned_fits rfl (Int.ofNat_le.mpr h)

/-- Settles O11: the two cases of the pseudocode, and each corner case from the case that its value selects. -/
theorem narrowU64To32Result : Obligations.NarrowU64To32Result := by
  refine ⟨rfl, fun s => ?_⟩
  intro v
  have habove {x : DWord} (hx : s.a = x) (h : x.toNat > 4294967295) : s.Gives .narrowU64To32 0xFFFFFFFF#32 false :=
    gives_narrowU64To32_above (hx ▸ h)
  have hfits {x : DWord} (hx : s.a = x) (h : x.toNat ≤ 4294967295) :
      s.Gives .narrowU64To32 (x.extractLsb' 0 32) true :=
    hx ▸ gives_narrowU64To32_fits (hx ▸ h)
  refine ⟨Nat.le_sub_one_of_lt s.a.isLt, habove rfl,
    fun h => ⟨hfits rfl h, (ofNat_toNat_eq_extractLsb' s.a).symm⟩, ?_⟩
  exact ⟨fun hx => hfits hx (by decide), fun hx => habove hx (by decide), fun hx => habove hx (by decide),
    fun hx => habove hx (by decide), fun hx => habove hx (by decide), fun hx => hfits hx (by decide),
    fun _ => result_ne_zero_of_gives_false rfl⟩

/-- Settles O30: by the cases of the two operations out of range. -/
theorem narrowingClamps : Obligations.NarrowingClamps := fun _ =>
  ⟨gives_narrowS64To32_above, gives_narrowS64To32_below, gives_narrowU64To32_above⟩

end Sys2Proof.Machine
end

section
/-! The tests of the narrowing mux (R63, R64), the sign of a clamped input (R67), and widening back (R69). -/

namespace Sys2Proof.Machine

/-! ### The sign-extend path -/

/-- The top 33 bits of `N` are all equal exactly when `N` is in `S32` (R63). -/
theorem extractLsb'_top_uniform_iff (N : DWord) :
    N.extractLsb' 31 33 = 0#33 ∨ N.extractLsb' 31 33 = BitVec.allOnes 33 ↔
      -2147483648 ≤ N.toInt ∧ N.toInt ≤ 2147483647 := by
  have hN := N.isLt
  rw [← BitVec.toNat_inj, ← BitVec.toNat_inj, BitVec.extractLsb'_toNat, Nat.shiftRight_eq_div_pow,
    BitVec.toNat_allOnes, BitVec.toNat_ofNat, BitVec.toInt_eq_toNat_cond]
  omega

theorem signExtendPath_not_fits {N : DWord} (h : sext 64 (trunc 32 N) ≠ N) :
    signExtendPath N = ⟨if N.msb then clampMinSigned else clampMaxSigned, false⟩ :=
  if_neg h

/-- Settles O26: both tests on the bits are the test whether `N` is in `S32`. -/
theorem signExtendPathTests : Obligations.SignExtendPathTests := by
  intro N fits
  have hrange : fits ↔ -2147483648 ≤ N.toInt ∧ N.toInt ≤ 2147483647 := sext_trunc_eq_self_iff N
  refine ⟨hrange.trans (extractLsb'_top_uniform_iff N).symm, hrange, fun h => if_pos h,
    fun h hmsb => ?_, fun h hmsb => ?_, (signExtendPath_eq_narrowS64To32 N).symm⟩
  · rw [signExtendPath_not_fits h, hmsb]
    rfl
  · rw [signExtendPath_not_fits h, hmsb]
    rfl

theorem msb_eq_false_iff_toInt_nonneg (W : DWord) : W.msb = false ↔ W.toInt ≥ 0 := by
  rw [BitVec.msb_eq_toInt, decide_eq_false_iff_not, not_lt]

/-- Settles O28: an input past the upper bound is not negative, and one past the lower bound is. -/
theorem narrowClampFollowsInputSign : Obligations.NarrowClampFollowsInputSign := by
  intro W hok
  rw [narrowS64To32, sint_eq_toInt] at hok ⊢
  simp only [msb_eq_false_iff_toInt_nonneg, and_self]
  rcases clampSigned_cases W.toInt (trunc 32 W) with ⟨h, heq⟩ | ⟨h, heq⟩ | ⟨-, -, heq⟩
  · have hnonneg : W.toInt ≥ 0 := le_trans (by decide) h.le
    exact ⟨.inl h, by rw [heq, if_pos hnonneg, clampMaxSigned]⟩
  · have hneg : W.toInt < 0 := lt_trans h (by decide)
    exact ⟨.inr h, by rw [heq, if_neg hneg.not_ge, clampMinSigned]⟩
  · simp [heq] at hok

/-! ### The zero-extend path -/

/-- The high half of `N` is 0 exactly when `N` is in `U32` (R64). -/
theorem extractLsb'_high_eq_zero_iff (N : DWord) : N.extractLsb' 32 32 = 0#32 ↔ N.toNat ≤ 4294967295 := by
  have hN := N.isLt
  rw [← BitVec.toNat_inj, BitVec.extractLsb'_toNat, Nat.shiftRight_eq_div_pow, BitVec.toNat_ofNat]
  omega

/-- Settles O27: both tests on the bits are the test whether `N` is in `U32`. -/
theorem zeroExtendPathTests : Obligations.ZeroExtendPathTests := by
  intro N fits
  have hrange : fits ↔ N.toNat ≤ 4294967295 := zext_trunc_eq_self_iff N
  exact ⟨hrange.trans (extractLsb'_high_eq_zero_iff N).symm, hrange, fun h => if_pos h, fun h => if_neg h,
    (zeroExtendPath_eq_narrowU64To32 N).symm⟩

/-! ### Widening back -/

/-- Settles O29: a value in range passes the test of its path, which is that `W[31:0]` widens back to `W`, and widening
keeps the value. -/
theorem narrowingRoundTrip : Obligations.NarrowingRoundTrip := by
  refine fun v s ha => ⟨fun hl hu => ?_, fun hl hu => ?_⟩
  · have hv : s.a.toInt = v := by
      rw [ha]
      exact BitVec.toInt_ofInt_eq_self (by decide) (by omega) (by omega)
    rw [← hv] at hl hu ⊢
    have hwiden : (s.a.extractLsb' 0 32).signExtend 64 = s.a := (sext_trunc_eq_self_iff s.a).mpr ⟨hl, hu⟩
    refine ⟨s.a.extractLsb' 0 32, gives_narrowS64To32_fits hl hu, ?_, hwiden⟩
    rw [← BitVec.toInt_signExtend_of_le (by decide : 32 ≤ 64), hwiden]
  · have hv : (s.a.toNat : Int) = v := by
      rw [ha, ← bits_eq_ofInt, ← uint_eq_toNat, uint_bits]
      exact Int.emod_eq_of_lt hl (by omega)
    have hfit : s.a.toNat ≤ 4294967295 := by omega
    have hwiden : (s.a.extractLsb' 0 32).setWidth 64 = s.a := (zext_trunc_eq_self_iff s.a).mpr hfit
    refine ⟨s.a.extractLsb' 0 32, gives_narrowU64To32_fits hfit, ?_, hwiden⟩
    rw [← BitVec.toNat_setWidth_of_le (by decide : 32 ≤ 64), hwiden, hv]

end Sys2Proof.Machine
end

section
/-! The exact product of two words (R73, R75): its sharp bounds, its sign, and the 64 bits that hold it whole. -/

namespace Sys2Proof.Machine

/-- A product is least with operands of opposite sign, the non-negative one at its bound, and then the other at its own;
it is greatest with both at the negative bound. -/
theorem toInt_mul_toInt_range (A B : Word) :
    -2 ^ 62 + 2 ^ 31 ≤ A.toInt * B.toInt ∧ A.toInt * B.toInt ≤ 2 ^ 62 := by
  obtain ⟨hAl, hAu⟩ := toInt_word_range A
  obtain ⟨hBl, hBu⟩ := toInt_word_range B
  refine ⟨?_, BitVec.toInt_mul_toInt_le⟩
  rcases le_or_gt 0 A.toInt with hA | hA
  · calc (-2 ^ 62 + 2 ^ 31 : Int) ≤ A.toInt * -2147483648 := by omega
      _ ≤ A.toInt * B.toInt := mul_le_mul_of_nonneg_left hBl hA
  · calc (-2 ^ 62 + 2 ^ 31 : Int) ≤ A.toInt * 2147483647 := by omega
      _ ≤ A.toInt * B.toInt := mul_le_mul_of_nonpos_left hBu hA.le

theorem toNat_mul_toNat_le (A B : Word) : A.toNat * B.toNat ≤ 2 ^ 64 - 2 ^ 33 + 1 :=
  Nat.mul_le_mul (Nat.le_sub_one_of_lt A.isLt) (Nat.le_sub_one_of_lt B.isLt)

/-- The sign of a product of non-zero operands is the exclusive or of their sign bits (R75). -/
theorem toInt_mul_toInt_neg_iff {A B : Word} (hA : A ≠ 0#32) (hB : B ≠ 0#32) :
    A.toInt * B.toInt < 0 ↔ (A.msb ^^ B.msb) = true := by
  have hA0 : A.toInt ≠ 0 := fun h => hA (BitVec.eq_of_toInt_eq h)
  have hB0 : B.toInt ≠ 0 := fun h => hB (BitVec.eq_of_toInt_eq h)
  rw [mul_neg_iff, Bool.xor_iff_ne, BitVec.msb_eq_toInt, BitVec.msb_eq_toInt, ne_eq, decide_eq_decide]
  omega

theorem toInt_product_signed (A B : Word) : (product .signed A B).toInt = A.toInt * B.toInt := by
  rw [← sint_eq_toInt, sint_product_signed, sint_eq_toInt, sint_eq_toInt]

theorem toNat_product_unsigned (A B : Word) : (product .unsigned A B).toNat = A.toNat * B.toNat := by
  have huint := uint_product_unsigned A B
  rw [uint_eq_toNat, uint_eq_toNat, uint_eq_toNat] at huint
  exact_mod_cast huint

/-- Settles O31: the bounds keep both products inside the range of the 64-bit product. -/
theorem productNeverWraps : Obligations.ProductNeverWraps := by
  refine ⟨fun A B => ?_, by decide, by decide⟩
  exact ⟨rfl, toNat_product_unsigned A B, toNat_mul_toNat_le A B, rfl, toInt_product_signed A B,
    toInt_mul_toInt_range A B⟩

end Sys2Proof.Machine
end

section
/-! The multiply family beside the narrow family (R77, R78), and commuting operands (R79). -/

namespace Sys2Proof.Machine

/-- Settles O33: the two operations have the same outputs on the operands that each takes from the ports. -/
theorem unsignedMulIsNarrowedProduct : Obligations.UnsignedMulIsNarrowedProduct := by
  intro a b b'
  have houtputs : operate .unsignedMul32 a b =
      operate .narrowU64To32 (product .unsigned (operandA a) (operandB b)) b' :=
    unsignedMul32_eq_narrowU64To32 _ _
  rw [eval_of_decode (i := .unsignedMul32) rfl, houtputs]
  rfl

/-- Settles O34: the same for the signed operations, where the 64-bit product holds the exact one. -/
theorem signedMulIsNarrowedProduct : Obligations.SignedMulIsNarrowedProduct := by
  intro a b b'
  have houtputs : operate .signedMul32 a b =
      operate .narrowS64To32 (product .signed (operandA a) (operandB b)) b' :=
    signedMul32_eq_narrowS64To32 _ _
  rw [eval_of_decode (i := .signedMul32) rfl, houtputs, product_signed, bits_eq_ofInt, sint_eq_toInt, sint_eq_toInt]
  rfl

/-- Settles O35: the multiply family is the other of the two whose operations commute. -/
theorem multiplicationsCommute : Obligations.MultiplicationsCommute :=
  eval_append_comm (.inr rfl)

end Sys2Proof.Machine
end

section
/-! `signedMul32` (R74, R75): all it can answer, and what it gives on a state, by the range of the exact product. -/

namespace Sys2Proof.Machine

/-- Everything `signedMul32` can answer, with the range of the exact product in each case. -/
theorem signedMul32_cases (A B : Word) :
    (A.toInt * B.toInt > 2147483647 ∧ signedMul32 A B = ⟨0x7FFFFFFF#32, false⟩) ∨
    (A.toInt * B.toInt < -2147483648 ∧ signedMul32 A B = ⟨0x80000000#32, false⟩) ∨
    (-2147483648 ≤ A.toInt * B.toInt ∧ A.toInt * B.toInt ≤ 2147483647 ∧
      signedMul32 A B = ⟨trunc 32 (product .signed A B), true⟩) := by
  rw [signedMul32_eq_narrowS64To32, narrowS64To32, sint_eq_toInt, toInt_product_signed]
  exact clampSigned_cases _ _

/-- Settles O32: a product past either bound has the sign of that bound, and a zero product is within both. -/
theorem signedMulClampFollowsProductSign : Obligations.SignedMulClampFollowsProductSign := by
  refine fun A B => ⟨fun hok => ?_, toInt_mul_toInt_neg_iff, fun hzero => ?_⟩
  · simp only [BitVec.msb_eq_toInt, toInt_product_signed, decide_eq_true_eq, decide_eq_false_iff_not]
    rcases signedMul32_cases A B with ⟨h, heq⟩ | ⟨h, heq⟩ | ⟨-, -, heq⟩
    · exact .inl ⟨by omega, by rw [heq], by omega⟩
    · exact .inr ⟨by omega, by rw [heq], by omega⟩
    · simp [heq] at hok
  · rcases signedMul32_cases A B with ⟨h, -⟩ | ⟨h, -⟩ | ⟨-, -, heq⟩
    · omega
    · omega
    · rw [heq]

theorem exactResult_signedMul32 (a : DWord) (b : Word) :
    exactResult .signedMul32 a b = (a.extractLsb' 0 32).toInt * b.toInt := by
  rw [exactResult, sint_eq_toInt, sint_eq_toInt, operandA_eq, operandB_eq]

/-- The low half of the 64-bit product is that of the exact product (R74). -/
theorem extractLsb'_product_signed (A B : Word) :
    (product .signed A B).extractLsb' 0 32 = BitVec.ofInt 32 (A.toInt * B.toInt) := by
  rw [← ofInt_toInt_eq_extractLsb', toInt_product_signed]

section
variable {s : State} {x y : Word} (hA : s.a.extractLsb' 0 32 = x) (hB : s.b = y)
include hA hB

theorem gives_signedMul32_above (h : x.toInt * y.toInt > 2147483647) :
    s.Gives .signedMul32 0x7FFFFFFF#32 false := by
  rw [← hA, ← hB, ← exactResult_signedMul32] at h
  exact gives_signed_above rfl h

theorem gives_signedMul32_below (h : x.toInt * y.toInt < -2147483648) :
    s.Gives .signedMul32 0x80000000#32 false := by
  rw [← hA, ← hB, ← exactResult_signedMul32] at h
  exact gives_signed_below rfl h

theorem gives_signedMul32_fits (hl : -2147483648 ≤ x.toInt * y.toInt) (hu : x.toInt * y.toInt ≤ 2147483647) :
    s.Gives .signedMul32 (BitVec.ofInt 32 (x.toInt * y.toInt)) true := by
  rw [← hA, ← hB, ← exactResult_signedMul32] at hl hu ⊢
  exact gives_signed_fits rfl hl hu

theorem gives_signedMul32_of_eq_zero (h : x.toInt * y.toInt = 0) : s.Gives .signedMul32 0#32 true := by
  have hfits := gives_signedMul32_fits hA hB (by omega) (by omega)
  rwa [h] at hfits

/-- A clamped product that is not negative is past the upper bound (R74). -/
theorem result_eq_of_gives_signedMul32_false (hnonneg : 0 ≤ x.toInt * y.toInt) {r : Word}
    (hr : s.Gives .signedMul32 r false) : r = 0x7FFFFFFF#32 := by
  rw [gives_iff] at hr
  rcases le_or_gt (x.toInt * y.toInt) 2147483647 with h | h
  · have hfits := gives_signedMul32_fits hA hB (by omega) h
    simp [gives_iff, hr] at hfits
  · have habove := gives_signedMul32_above hA hB h
    rw [gives_iff, hr] at habove
    exact congrArg Outputs.result habove

end

/-- Settles O12: the three cases of the pseudocode, and each corner case from the case its exact product selects. -/
theorem signedMul32Result : Obligations.SignedMul32Result := by
  refine ⟨rfl, fun s => ?_⟩
  intro A p
  have hval {x y : Word} (hx : A = x) (hy : s.b = y) : p = x.toInt * y.toInt := by rw [← hx, ← hy]
  refine ⟨toInt_mul_toInt_range A s.b, gives_signedMul32_above rfl rfl, gives_signedMul32_below rfl rfl,
    fun hl hu => ?_, fun hzero => ?_, ?_⟩
  · have hfits := gives_signedMul32_fits rfl rfl hl hu
    exact ⟨(extractLsb'_product_signed A s.b).symm ▸ hfits, hfits⟩
  · refine gives_signedMul32_of_eq_zero rfl rfl ?_
    rcases hzero with h | h
    · exact mul_eq_zero_of_left (congrArg BitVec.toInt h) _
    · exact mul_eq_zero_of_right _ (congrArg BitVec.toInt h)
  exact ⟨fun hx hy => gives_signedMul32_fits hx hy (by decide) (by decide),
    fun hx hy => ⟨gives_signedMul32_above hx hy (by decide), hval hx hy⟩,
    fun hx hy => ⟨gives_signedMul32_above hx hy (by decide), hval hx hy⟩,
    fun hx hy => ⟨gives_signedMul32_above hx hy (by decide), hval hx hy⟩,
    fun hx hy => ⟨gives_signedMul32_below hx hy (by decide), hval hx hy⟩,
    fun hx hy => gives_signedMul32_fits hx hy (by decide) (by decide),
    fun hx hy => ⟨gives_signedMul32_above hx hy (by decide), hval hx hy⟩,
    fun hx hy => ⟨gives_signedMul32_fits hx hy (by decide) (by decide), hval hx hy⟩,
    fun hx hy => ⟨gives_signedMul32_above hx hy (by decide), hval hx hy⟩,
    fun hx hy => gives_signedMul32_fits hx hy (by decide) (by decide),
    fun hsquare =>
      have hnonneg : 0 ≤ p := hval rfl hsquare.symm ▸ mul_self_nonneg A.toInt
      ⟨hnonneg, fun _ => result_eq_of_gives_signedMul32_false rfl rfl hnonneg⟩⟩

end Sys2Proof.Machine
end

section
/-! `unsignedMul32` (R76): what it gives on a state, by the range of the exact product. -/

namespace Sys2Proof.Machine

theorem product_unsigned_eq_ofNat (A B : Word) : product .unsigned A B = BitVec.ofNat 64 (A.toNat * B.toNat) := by
  rw [← toNat_product_unsigned, BitVec.ofNat_toNat, BitVec.setWidth_eq]

theorem exactResult_unsignedMul32 (a : DWord) (b : Word) :
    exactResult .unsignedMul32 a b = ((a.extractLsb' 0 32).toNat * b.toNat : Nat) := by
  rw [exactResult, uint_eq_toNat, uint_eq_toNat, operandA_eq, operandB_eq, Nat.cast_mul]

/-- The high half of the 64-bit product is 0 exactly when the exact product is in `U32` (R76). -/
theorem extractLsb'_high_product_unsigned_eq_zero_iff (A B : Word) :
    (product .unsigned A B).extractLsb' 32 32 = 0#32 ↔ A.toNat * B.toNat ≤ 4294967295 := by
  rw [extractLsb'_high_eq_zero_iff, toNat_product_unsigned]

section
variable {s : State} {x y : Word} (hA : s.a.extractLsb' 0 32 = x) (hB : s.b = y)
include hA hB

theorem gives_unsignedMul32_above (h : x.toNat * y.toNat > 4294967295) :
    s.Gives .unsignedMul32 0xFFFFFFFF#32 false := by
  refine gives_unsigned_above rfl ?_
  rw [exactResult_unsignedMul32, hA, hB]
  exact Int.ofNat_lt.mpr h

theorem gives_unsignedMul32_fits (h : x.toNat * y.toNat ≤ 4294967295) :
    s.Gives .unsignedMul32 ((product .unsigned x y).extractLsb' 0 32) true := by
  rw [← ofNat_toNat_eq_extractLsb', toNat_product_unsigned, ← BitVec.ofInt_natCast, ← hA, ← hB,
    ← exactResult_unsignedMul32]
  refine gives_unsigned_fits rfl ?_
  rw [exactResult_unsignedMul32, hA, hB]
  exact Int.ofNat_le.mpr h

end

/-- Settles O13: the two cases of the pseudocode, and each corner case from the case that its exact product selects. -/
theorem unsignedMul32Result : Obligations.UnsignedMul32Result := by
  refine ⟨rfl, fun s => ?_⟩
  intro A p P
  have hP : P = BitVec.ofNat 64 p := product_unsigned_eq_ofNat A s.b
  have hval {x y : Word} (hx : A = x) (hy : s.b = y) : p = x.toNat * y.toNat := by rw [← hx, ← hy]
  have hhigh : p > 4294967295 ↔ P.extractLsb' 32 32 ≠ 0#32 := by
    rw [gt_iff_lt, ← not_le]
    exact not_congr (extractLsb'_high_product_unsigned_eq_zero_iff A s.b).symm
  refine ⟨toNat_mul_toNat_le A s.b, hP, hhigh, gives_unsignedMul32_above rfl rfl, gives_unsignedMul32_fits rfl rfl,
    fun hzero => ?_, ?_⟩
  · have hp : p = 0 := by
      rcases hzero with h | h
      · rw [hval h rfl, BitVec.toNat_zero, zero_mul]
      · rw [hval rfl h, BitVec.toNat_zero, mul_zero]
    have hfits : s.Gives .unsignedMul32 (P.extractLsb' 0 32) true := gives_unsignedMul32_fits rfl rfl (by omega)
    rwa [hP, hp] at hfits
  exact ⟨fun hx hy => gives_unsignedMul32_fits hx hy (by decide),
    fun hx hy => ⟨gives_unsignedMul32_above hx hy (by decide), hval hx hy⟩,
    fun hx hy => gives_unsignedMul32_fits hx hy (by decide),
    fun hx hy => gives_unsignedMul32_fits hx hy (by decide),
    fun hx hy => ⟨gives_unsignedMul32_above hx hy (by decide), hP.trans (congrArg (BitVec.ofNat 64) (hval hx hy))⟩,
    fun _ => result_ne_zero_of_gives_false rfl,
    fun hx hy => gives_unsignedMul32_above hx hy (by decide)⟩

end Sys2Proof.Machine
end

section
/-! The host's side (R80, R85, R94): which evaluations complete and what they leave alone. -/

namespace Sys2Proof.Machine

/-- The decoder finds an operation on exactly the well-formed `op` values (R47). -/
theorem exists_decode_iff (op : OpSel) : (∃ i, decode op = .ok i) ↔ opWellFormed op = true := by
  rcases decode_cases op with ⟨hwf, hdecode⟩ | ⟨hwf, hdecode⟩
  · exact iff_of_true hdecode hwf
  · simp [hwf, hdecode]

theorem decode_of_not_wellFormed {op : OpSel} (h : opWellFormed op = false) :
    decode op = .error (.reservedOp op) :=
  (decode_eq_reservedOp_iff op).mpr ((opWellFormed_eq_false_iff op).mp h)

/-- A step on a decoded operation drives its outputs (R39). -/
theorem step_eq_drive {s : State} {i : Instr} (h : decode s.op = .ok i) :
    step s = .next (s.drive (operate i s.a s.b)) := by
  rw [step_eq_exec h, exec_eq_drive]

/-- Settles O5: a step completes where the decoder finds an operation. -/
theorem safeExactlyWhenStepCompletes : Obligations.SafeExactlyWhenStepCompletes := by
  intro s
  rw [State.Safe, ← exists_decode_iff]
  constructor
  · rintro ⟨i, hdecode⟩
    exact ⟨_, step_eq_drive hdecode⟩
  · rintro ⟨t, hstep⟩
    obtain ⟨i, hdecode, -⟩ := step_next hstep
    exact ⟨i, hdecode⟩

/-- Settles O6: every meaning drives the two output ports and leaves the rest. -/
theorem everyOperationCompletesWithFrame : Obligations.EveryOperationCompletesWithFrame :=
  fun i s => ⟨operate i s.a s.b, exec_eq_drive i s⟩

/-- Settles O40: a well-formed `op` decodes, so the evaluation drives the operation's outputs beside the presented
inputs; a reserved one is refused. -/
theorem hostSamplesEvalOfPresentedInputs : Obligations.HostSamplesEvalOfPresentedInputs := by
  refine fun x s => ⟨present_sample x s, present_inputs x s, fun hwf => ?_, fun hreserved => ?_⟩
  · obtain ⟨i, hdecode⟩ := (exists_decode_iff x.op).mpr hwf
    have hstep : evaluate x s = .next ((s.present x).drive (operate i x.a x.b)) :=
      step_eq_drive (s := s.present x) hdecode
    exact ⟨_, _, hstep, drive_inputs _ _, drive_sample _ _, eval_of_decode hdecode _ _⟩
  · exact (step_eq_refused_iff (s.present x) _).mpr ⟨decode_of_not_wellFormed hreserved, rfl⟩

end Sys2Proof.Machine
end

section
/-! Sessions of host moves (R25, R94): what every move keeps, a session keeps; and no move shows stale outputs (R98). -/

namespace Sys2Proof.Machine

/-- A session completes when its first move and the rest of it do. -/
theorem runMoves_cons_eq_next_iff {m : HostMove} {ms : List HostMove} {s t : State} :
    runMoves (m :: ms) s = .next t ↔ ∃ u, m.apply s = .next u ∧ runMoves ms u = .next t := by
  rw [runMoves]
  cases m.apply s <;> simp

/-- A predicate that every completed move keeps holds after every completed session. -/
theorem runMoves_invariant {P : State → Prop} (hmove : ∀ m s t, P s → HostMove.apply m s = .next t → P t)
    {ms : List HostMove} {s t : State} (hs : P s) (hrun : runMoves ms s = .next t) : P t := by
  induction ms generalizing s with
  | nil =>
    obtain rfl : s = t := Host.Outcome.next.inj hrun
    exact hs
  | cons m ms ih =>
    obtain ⟨u, happly, hrest⟩ := runMoves_cons_eq_next_iff.mp hrun
    exact ih (hmove m s u hs happly) hrest

/-- Freshly presented inputs have no outputs beside them that could be stale (R98). -/
theorem faithful_present (x : Inputs) (s : State) : (s.present x).Faithful := fun _ h => nomatch h

/-- What a step drives is the function of the inputs it leaves in place (R17). -/
theorem faithful_of_step_eq_next {s t : State} (h : step s = .next t) : t.Faithful := by
  obtain ⟨i, hdecode, rfl⟩ := step_next h
  intro o ho
  obtain rfl : operate i s.a s.b = o := Option.some.inj ho
  exact eval_of_decode hdecode s.a s.b

/-- Every completed move ends in a faithful state, whatever state it starts from. -/
theorem faithful_of_apply_eq_next {m : HostMove} {s t : State} (h : m.apply s = .next t) : t.Faithful := by
  cases m with
  | present x =>
    obtain rfl : s.present x = t := Host.Outcome.next.inj h
    exact faithful_present x s
  | settle => exact faithful_of_step_eq_next h

/-- Settles O39: being faithful is an invariant of the moves. -/
theorem sessionsKeepOutputsFaithful : Obligations.SessionsKeepOutputsFaithful :=
  fun _ _ _ => runMoves_invariant fun _ _ _ _ => faithful_of_apply_eq_next

end Sys2Proof.Machine
end

section
/-! The outputs at power-up and after a step (R17, R96): they are on show, and they follow the inputs. -/

namespace Sys2Proof.Machine

/-- A completed step leaves its outputs to be sampled (R94). -/
theorem isSome_sample_of_step_eq_next {s t : State} (h : step s = .next t) : t.sample.isSome = true := by
  obtain ⟨i, -, rfl⟩ := step_next h
  rw [drive_sample, Option.isSome_some]

/-- Settles O38: a step ends in a faithful state that shows outputs. It overwrites the outputs it finds, so whether
those were faithful plays no part. -/
theorem stepKeepsOutputsFaithful : Obligations.StepKeepsOutputsFaithful :=
  fun _ _ _ hstep => ⟨faithful_of_step_eq_next hstep, isSome_sample_of_step_eq_next hstep⟩

/-- Power-up is as if the unit had just evaluated its inputs (R96): `signedAdd32` of 0 and 0 drives the outputs that
are already there. -/
theorem step_reset : step State.reset = .next State.reset := by
  have hdecode : decode State.reset.op = .ok .signedAdd32 := decode_encode .signedAdd32
  have hsum : operate .signedAdd32 State.reset.a State.reset.b = ⟨0#32, true⟩ := by decide
  rw [step_eq_drive hdecode, hsum]
  rfl

/-- Settles O37: the ports at power-up are those that a step leaves. -/
theorem resetOutputsFollowInputs : Obligations.ResetOutputsFollowInputs :=
  have hfaithful : State.reset.Faithful := faithful_of_step_eq_next step_reset
  ⟨hfaithful, ⟨0#32, true⟩, rfl, hfaithful _ rfl⟩

end Sys2Proof.Machine
end

section
/-! The source's six concrete cases (spec 95_test_vectors.md, S1 to S6): each one overflows, and answers its clamp. -/

namespace Sys2Proof.Machine

/-- Evaluating the encoding of an operation leaves the inputs it was given beside that operation's outputs. -/
theorem evaluate_encode (i : Instr) (a : DWord) (b : Word) (s : State) :
    evaluate ⟨encode i, a, b⟩ s = .next ⟨encode i, a, b, some (operate i a b)⟩ :=
  step_eq_drive (s := s.present ⟨encode i, a, b⟩) (decode_encode i)

/-- An evaluation whose exact result is not representable shows the clamp value with `ok` false (R21, R24). -/
theorem evaluate_encode_of_not_fits {i : Instr} {a : DWord} {b : Word}
    (hfits : fitsOutput i (exactResult i a b) = false) (s : State) :
    evaluate ⟨encode i, a, b⟩ s = .next ⟨encode i, a, b, some ⟨clampValue i (exactResult i a b), false⟩⟩ := by
  rw [evaluate_encode, operate_of_not_fits hfits]

/-- Settles O44: in each case the exact result is out of range, and the listed result is its clamp value. -/
theorem sourceConcreteCases : Obligations.SourceConcreteCases :=
  ⟨evaluate_encode_of_not_fits (i := .signedAdd32) (by decide) _,
   evaluate_encode_of_not_fits (i := .unsignedAdd32) (by decide) _,
   evaluate_encode_of_not_fits (i := .narrowU64To32) (by decide) _,
   evaluate_encode_of_not_fits (i := .narrowS64To32) (by decide) _,
   evaluate_encode_of_not_fits (i := .unsignedMul32) (by decide) _,
   evaluate_encode_of_not_fits (i := .signedMul32) (by decide) _⟩

end Sys2Proof.Machine
end
